-- ==== Sys2Proof/Word.lean ====
section
/-! DEFINITION. The values the block handles: bytes, host addresses and byte lists of a fixed length (R8, R9, R10). -/

namespace Sys2Proof

/-- A byte: every data path of the block is one byte wide (R8, R9). -/
abbrev Byte := BitVec 8

/-- A host register address (R8, R43). -/
abbrev HostAddr := BitVec 16

/-- A byte list `[b0, ..., b(n-1)]` of length `n`, index 0 first (R9, R10). -/
abbrev Bytes (n : Nat) := Vector Byte n

end Sys2Proof
end

