-- ==== Sys2Proof/Syntax.lean ====
section
/-! DEFINITION. The command set FCX: one constructor per row of the opcode table (R62). A command names its operands
implicitly (R60), so no constructor has an argument. -/

namespace Sys2Proof

/-- The six commands of R62. -/
inductive Instr where
  /-- GEN_BLINK, 0x01 (R80). -/
  | genBlink
  /-- GEN_SHORT, 0x02 (R81). -/
  | genShort
  /-- GEN_LONG, 0x03 (R82). -/
  | genLong
  /-- DEC_BLINK, 0x05 (R90). -/
  | decBlink
  /-- DEC_SHORT, 0x06 (R91). -/
  | decShort
  /-- DEC_LONG, 0x07 (R92). -/
  | decLong
deriving DecidableEq, Repr

/-- A decode command (DIR = 1) as against a generate command (DIR = 0) (R15, R61). -/
def Instr.isDecode : Instr → Bool
  | .genBlink => false
  | .genShort => false
  | .genLong => false
  | .decBlink => true
  | .decShort => true
  | .decLong => true

end Sys2Proof
end

