-- ==== Sys2Proof/Decode.lean ====
section
/-! DEFINITION. The command byte: its fields (R61), the decoder from the fields, total on any bytes, and the encoder from
the opcode map (R62). -/

namespace Sys2Proof

/-- Why bytes are no command (R63). -/
inductive DecodeError where
  /-- There is no byte to decode. -/
  | truncated
  /-- c[7:3] is not 0b00000. -/
  | reservedBits (c : Byte)
  /-- c[1:0] = 0b00 names no frame type. -/
  | noFrameType (c : Byte)
deriving DecidableEq, Repr

/-- RSV, c[7:3] (R61). -/
def rsvField (c : Byte) : BitVec 5 := c.extractLsb' 3 5

/-- DIR, c[2]: 0 generate, 1 decode (R61). -/
def dirField (c : Byte) : BitVec 1 := c.extractLsb' 2 1

/-- FT, c[1:0]: 1 blink, 2 short-MAC, 3 long-MAC (R61). -/
def ftField (c : Byte) : BitVec 2 := c.extractLsb' 0 2

/-- The command a byte stands for, from its fields (R61, R63). -/
def decodeByte (c : Byte) : Except DecodeError Instr :=
  if rsvField c ≠ 0 then .error (.reservedBits c)
  else if ftField c = 0 then .error (.noFrameType c)
  else if ftField c = 1 then
    if dirField c = 0 then .ok .genBlink else .ok .decBlink
  else if ftField c = 2 then
    if dirField c = 0 then .ok .genShort else .ok .decShort
  else
    if dirField c = 0 then .ok .genLong else .ok .decLong

/-- One command off the front of a list of bytes: every command is exactly one byte (R60). -/
def decode : List Byte → Except DecodeError (Instr × List Byte)
  | [] => .error .truncated
  | c :: rest =>
    match decodeByte c with
    | .ok i => .ok (i, rest)
    | .error e => .error e

/-- A whole list of command bytes, stopping at the first byte that is none. -/
def decodeStream : List Byte → Except DecodeError (List Instr)
  | [] => .ok []
  | c :: rest =>
    match decodeByte c with
    | .error e => .error e
    | .ok i =>
      match decodeStream rest with
      | .error e => .error e
      | .ok is => .ok (i :: is)

/-- The command byte of an instruction (R62). -/
def encodeByte : Instr → Byte
  | .genBlink => 0x01
  | .genShort => 0x02
  | .genLong => 0x03
  | .decBlink => 0x05
  | .decShort => 0x06
  | .decLong => 0x07

/-- An instruction's bytes: exactly one (R60, R62). -/
def encode (i : Instr) : List Byte := [encodeByte i]

/-- The bytes of a list of commands, one after another. -/
def encodeStream : List Instr → List Byte
  | [] => []
  | i :: is => encode i ++ encodeStream is

/-- The low `n` bytes of `w`, bits 7..0 first. -/
def lowBytes : Nat → Nat → List Byte
  | 0, _ => []
  | n + 1, w => BitVec.ofNat 8 w :: lowBytes n (w / 256)

/-- The bytes of an instruction the opcode table gives `nbits` bits: whole bytes, at least the one byte of the longest
command (R60). -/
def tableBytes (nbits w : Nat) : List Byte := lowBytes (max 1 ((nbits + 7) / 8)) w

/-- The instruction the decoder reads from an instruction whose bits are `w`. -/
def decodeTableWord (nbits w : Nat) : Option Instr :=
  match decode (tableBytes nbits w) with
  | .ok (i, _) => some i
  | .error _ => none

end Sys2Proof
end

