-- ==== Sys2Proof/Config.lean ====
section
/-! DEFINITION. The parameters a block is built with (R6), fixed for its life (R39). The spec leaves each OPEN, so a
configuration is plain data and every statement ranges over all of them; none of them is chosen here. -/

namespace Sys2Proof

/-- The parameters of R6. -/
structure Config where
  /-- FC_BLINK: the frame-control byte of a blink frame. -/
  fcBlink : Byte
  /-- FC1: frame-control byte 1 of short-MAC and long-MAC frames. -/
  fc1 : Byte
  /-- FC2_SHORT: frame-control byte 2 of a short-MAC frame. -/
  fc2Short : Byte
  /-- FC2_LONG: frame-control byte 2 of a long-MAC frame (90_conflicts.md C3). -/
  fc2Long : Byte
  /-- FB_LEN: the size of the frame buffer in bytes, at most 65280 (`Config.WellFormed`). -/
  fbLen : Nat
  /-- ZF_LEN: how many leading FB bytes GEN_SHORT zeroes, cut at FB_LEN (90_conflicts.md C1). -/
  zfLen : Nat
  /-- VALIDATE_FC: whether decode commands check the frame-control bytes. -/
  validateFc : Bool
deriving DecidableEq, Repr

/-- The largest FB_LEN: the host window 0x0100 .. 0xFFFF (R6, R43). -/
def Config.maxFbLen : Nat := 65280

/-- The reference configuration RC of R6, which the spec uses for its vectors only. DESIGN CHOICE (log entry 2):
`State.reset` is built with it, because a machine has one state after reset. -/
def Config.reference : Config where
  fcBlink := 0xC5
  fc1 := 0x41
  fc2Short := 0x88
  fc2Long := 0x8C
  fbLen := 23
  zfLen := 23
  validateFc := false

end Sys2Proof
end

