-- ==== Sys2Proof/Machine/State.lean ====
section
/-! DEFINITION. The state of one FrameCodec block (R20), with the marks a model adds (R36, R118), the host's side of the
port (R54, R59) and the configuration the block is built with (R6). Plain data. -/

namespace Sys2Proof.Machine

/-- One byte of a register, with its unwritten mark (R36). While the mark is set the value has no meaning and nothing
reads it. -/
structure RegByte where
  /-- The byte. -/
  value : Byte
  /-- No write has reached this byte since reset (R36). -/
  unwritten : Bool
deriving DecidableEq, Repr

/-- An address register of `n` bytes in caller order, index 0 first (R10, R22 to R25, R28, R29). -/
abbrev Reg (n : Nat) := Vector RegByte n

/-- The frame buffer (R27): (offset, byte) pairs, offsets strictly rising. An offset that is not listed is an unwritten
byte (R36): it has no value. -/
abbrev Memory := List Host.Cell

/-- One host transaction (R59, R70): a write, a read, or the assertion of reset (R130). -/
inductive Transaction where
  /-- Host write of byte `v` to address `a` (R44); to CMD it issues command `v` (R30). -/
  | write (a : HostAddr) (v : Byte)
  /-- Host read of address `a` (R45). -/
  | read (a : HostAddr)
  /-- Assertion of reset (R130). -/
  | reset
deriving DecidableEq, Repr

/-- What a host read gave back (R45). -/
structure Answer where
  /-- The address read. -/
  addr : HostAddr
  /-- The byte returned. -/
  data : Byte
deriving DecidableEq, Repr

/-- The machine (R20): configuration, the block's state, the model-only marks, and the host's side. -/
structure State where
  /-- The parameters of R6: no step changes them (R39). -/
  cfg : Config
  /-- SEQ, the sequence counter (R21). -/
  seq : Byte
  /-- SRC_SHORT (R22). -/
  srcShort : Reg 2
  /-- DST_SHORT (R23). -/
  dstShort : Reg 2
  /-- SRC_LONG (R24). -/
  srcLong : Reg 8
  /-- DST_LONG (R25). -/
  dstLong : Reg 8
  /-- FB, the frame buffer (R27). -/
  fb : Memory
  /-- OUT_SHORT (R28). -/
  outShort : Reg 2
  /-- OUT_LONG (R29). -/
  outLong : Reg 8
  /-- ERR_CAUSE, 0 = no fault (R31). -/
  errCause : Byte
  /-- ERR_CMD, the command byte that faulted (R32). -/
  errCmd : Byte
  /-- The run's UnwrittenRead fault mark, model only, never cleared (R118, 90_conflicts.md C6). -/
  unwrittenRead : Bool
  /-- MODEL'S OWN (log entry 1): the host's transactions still to come, oldest first (R54, R70). -/
  pending : List Transaction
  /-- MODEL'S OWN (log entry 1): what the host's reads gave back, oldest first (R45, R59). -/
  answers : List Answer
deriving DecidableEq, Repr

/-- The faults that stop the machine: none. A fault of R111 is a next state, ERR_CAUSE and ERR_CMD written and the block
halted (R115, R116); UnwrittenRead is a next state with the run's mark set (R118). No constructor, so no step of the
model can end this way: safe. -/
inductive Fault where
deriving DecidableEq, Repr

/-- Why a step has no meaning. -/
inductive Refusal where
  /-- An instruction whose arm has no meaning yet: raised by exec's arms only; safe, a run stops there. -/
  | notModelled (mnemonic : String)
  /-- A host read or write of a reserved address, which R46 gives no step: raised by the host port; safe. -/
  | reservedAddress (a : HostAddr)
  /-- A host write to ERR_CAUSE, ERR_CMD, OUT_SHORT or OUT_LONG, which R46 gives no step: raised by the host port; safe. -/
  | writeToReadOnly (a : HostAddr)
  /-- A host read of the write-only CMD, which R46 gives no step: raised by the host port; safe. -/
  | readOfCommandPort (a : HostAddr)
deriving DecidableEq, Repr

/-- A register no write has reached (R36, R37). DESIGN CHOICE (log entry 3): the value under each mark is 0x00; the spec
gives none and no step reads it. -/
def Reg.unspecified (n : Nat) : Reg n := Vector.replicate n { value := 0x00, unwritten := true }

/-- A block built with configuration `c`, right after reset (R37, R130, R132), before the host's first transaction. -/
def State.resetWith (c : Config) : State where
  cfg := c
  seq := 0x00
  srcShort := Reg.unspecified 2
  dstShort := Reg.unspecified 2
  srcLong := Reg.unspecified 8
  dstLong := Reg.unspecified 8
  fb := []
  outShort := Reg.unspecified 2
  outLong := Reg.unspecified 8
  errCause := 0x00
  errCmd := 0x00
  unwrittenRead := false
  pending := []
  answers := []

/-- The machine right after reset (R37). DESIGN CHOICE (log entry 2): the block has the reference configuration RC. -/
def State.reset : State := State.resetWith Config.reference

/-- SEQ <- v. -/
def State.setSeq (s : State) (v : Byte) : State := { s with seq := v }

/-- SRC_SHORT <- r. -/
def State.setSrcShort (s : State) (r : Reg 2) : State := { s with srcShort := r }

/-- DST_SHORT <- r. -/
def State.setDstShort (s : State) (r : Reg 2) : State := { s with dstShort := r }

/-- SRC_LONG <- r. -/
def State.setSrcLong (s : State) (r : Reg 8) : State := { s with srcLong := r }

/-- DST_LONG <- r. -/
def State.setDstLong (s : State) (r : Reg 8) : State := { s with dstLong := r }

/-- FB <- m. -/
def State.setFb (s : State) (m : Memory) : State := { s with fb := m }

/-- OUT_SHORT <- r. -/
def State.setOutShort (s : State) (r : Reg 2) : State := { s with outShort := r }

/-- OUT_LONG <- r. -/
def State.setOutLong (s : State) (r : Reg 8) : State := { s with outLong := r }

/-- ERR_CAUSE <- cause, ERR_CMD <- cmd: the two are always written together (R32). -/
def State.setError (s : State) (cause cmd : Byte) : State := { s with errCause := cause, errCmd := cmd }

/-- Set the run's UnwrittenRead mark; there is no operation that clears it (R118). -/
def State.markUnwrittenRead (s : State) : State := { s with unwrittenRead := true }

/-- Replace the host's transactions still to come. -/
def State.setPending (s : State) (ts : List Transaction) : State := { s with pending := ts }

/-- Hand the host the answer to its read (R45). -/
def State.answer (s : State) (r : Answer) : State := { s with answers := s.answers ++ [r] }

end Sys2Proof.Machine
end

