-- ==== Sys2Proof/Machine/Flags.lean ====
section
/-! DEFINITION. The block has no condition codes (R34): its only status is ERR_CAUSE (R31), whose codes (R111) and halted
reading (R116) are here. No command sets a status on success, the counter's wrap included (R129). -/

namespace Sys2Proof.Machine

/-- The three causes a fault has (R111). -/
inductive FaultCause where
  /-- A byte written to CMD that is no command (R112). -/
  | illegalCommand
  /-- FB_LEN < N(c) (R113). -/
  | bufferTooSmall
  /-- The frame-control bytes differ from the pattern (R114). -/
  | unexpectedFrameType
deriving DecidableEq, Repr

/-- The cause code in ERR_CAUSE, zero-extended to 8 bits (R111, R115). -/
def FaultCause.code : FaultCause → Byte
  | .illegalCommand => 0x01
  | .bufferTooSmall => 0x02
  | .unexpectedFrameType => 0x03

/-- The block is halted while ERR_CAUSE is non-zero (R116). -/
def State.halted (s : State) : Bool := s.errCause != 0x00

end Sys2Proof.Machine
end

