-- ==== Sys2Proof/Machine/Operands.lean ====
section
/-! DEFINITION. What the commands compute with: the byte-order reversal engine (R100), the counter's increment (R103),
whole-register reads and writes with their unwritten marks (R10, R36), the frame lengths and fixed bytes (R7, R68), and the
integer readings of an address (R13). -/

namespace Sys2Proof.Machine

/-- REV_n (R100): `r[i] = v[n-1-i]`. -/
def rev {n : Nat} (v : Bytes n) : Bytes n := Vector.ofFn fun i => v[n - 1 - i.val]

/-- INC (R103): 0xFF wraps to 0x00, every other value goes up by one. -/
def inc (s : Byte) : Byte := if s = 0xFF then 0x00 else s + 1

/-- The known byte of a register, none while it is marked unwritten (R36). -/
def RegByte.read (b : RegByte) : Option Byte := if b.unwritten then none else some b.value

/-- A byte some write has reached (R36). -/
def RegByte.written (v : Byte) : RegByte := { value := v, unwritten := false }

/-- A whole register, none if any of its bytes is unwritten (R10, R36). -/
def Reg.bytes {n : Nat} (r : Reg n) : Option (Bytes n) :=
  if ∀ k : Fin n, r[k].unwritten = false then some (Vector.ofFn fun k => r[k].value) else none

/-- `R <- v` for a whole register: every byte written (R10, R36). -/
def Reg.ofBytes {n : Nat} (v : Bytes n) : Reg n := Vector.ofFn fun k => RegByte.written v[k]

/-- `R[k] <- v` (R10): one byte, its mark cleared (R36, R44). -/
def Reg.setByte {n : Nat} (r : Reg n) (k : Fin n) (v : Byte) : Reg n := r.set k (RegByte.written v)

/-- N(c), the FB length a command requires: the frame's length in both directions (R7, R68). -/
def bytesNeeded : Instr → Nat
  | .genBlink => 12
  | .genShort => 9
  | .genLong => 23
  | .decBlink => 12
  | .decShort => 9
  | .decLong => 23

/-- The PAN ID bytes of offsets 3 and 4, in this literal order (R7, R41). -/
def panId : List Byte := [0xCA, 0xDE]

/-- The frame-control bytes of a command's frame type, from offset 0 on (R65, R69). -/
def frameControl (c : Config) : Instr → List Byte
  | .genBlink => [c.fcBlink]
  | .genShort => [c.fc1, c.fc2Short]
  | .genLong => [c.fc1, c.fc2Long]
  | .decBlink => [c.fcBlink]
  | .decShort => [c.fc1, c.fc2Short]
  | .decLong => [c.fc1, c.fc2Long]

/-- A byte list read most significant byte first. -/
def readBigEndian (bs : List Byte) : Nat := bs.foldl (fun acc b => acc * 256 + b.toNat) 0

/-- A byte list read least significant byte first. -/
def readLittleEndian : List Byte → Nat
  | [] => 0
  | b :: bs => b.toNat + 256 * readLittleEndian bs

/-- The integer an address denotes: the caller's index 0 is the most significant byte (R13). -/
def addressValue {n : Nat} (v : Bytes n) : Nat := readBigEndian v.toList

end Sys2Proof.Machine
end

