-- ==== Sys2Proof/Machine/Ops.lean ====
section
/-! DEFINITION. The shared operations: the frame buffer (R11, R27), what every command does before it is performed (R116,
R113, R117), taking a fault (R115), the run's UnwrittenRead mark (R118), and reset, the way out of a fault (R121, R130). -/

namespace Sys2Proof.Machine

/-- The known byte FB[i], none where no write has reached it (R27, R36). -/
def Memory.read : Memory → Nat → Option Byte
  | [], _ => none
  | (k, b) :: rest, i => if k = i then some b else Memory.read rest i

/-- `FB[i] <- v` (R11), keeping the offsets strictly rising. -/
def Memory.write : Memory → Nat → Byte → Memory
  | [], i, v => [(i, v)]
  | (k, b) :: rest, i, v =>
    if i < k then (i, v) :: (k, b) :: rest
    else if i = k then (i, v) :: rest
    else (k, b) :: Memory.write rest i v

/-- The canonical form: offsets strictly rising. No entry can equal what an unlisted offset reads as, since an unlisted
offset has no value. -/
def Memory.wf : Memory → Bool
  | [] => true
  | (k, _) :: rest => rest.all (fun c => decide (k < c.1)) && Memory.wf rest

/-- `MemRead(i, n)` (R11), none if a byte of it is unwritten (R118). -/
def Memory.readBytes (m : Memory) (i n : Nat) : Option (Bytes n) :=
  if h : ∀ k : Fin n, (m.read (i + k.val)).isSome then
    some (Vector.ofFn fun k => (m.read (i + k.val)).get (h k))
  else none

/-- `MemWrite(i, n, v)` (R11): `v[k]` goes to `FB[i+k]` and no other byte is written. -/
def Memory.writeBytes : Memory → Nat → List Byte → Memory
  | m, _, [] => m
  | m, i, b :: bs => Memory.writeBytes (m.write i b) (i + 1) bs

/-- GEN_SHORT's zero-fill: `FB[0..n-1] <- 0x00` (R81). -/
def Memory.zeroFill (m : Memory) (n : Nat) : Memory := m.writeBytes 0 (List.replicate n 0x00)

/-- TAKING A FAULT (R115, R120): ERR_CAUSE and ERR_CMD are written and nothing else; the block is then halted (R116).
`c` is the command byte as the host wrote it (R32). -/
def raiseFault (k : FaultCause) (c : Byte) (s : State) : State := s.setError k.code c

/-- Recording UnwrittenRead (R118): the run's mark is set and no other state changes. -/
def recordUnwrittenRead (s : State) : State := s.markUnwrittenRead

/-- RESET (R130), the only way out of the halted state (R121): the block's state takes the values of R37. The parameters
(R39), the run's UnwrittenRead mark (R118) and the host's side of the port stay. -/
def assertReset (s : State) : State :=
  { State.resetWith s.cfg with
    unwrittenRead := s.unwrittenRead
    pending := s.pending
    answers := s.answers }

/-- Steps 1 and 3 of R117, before a legal command `i` touches anything: a halted block ignores it (R116), a frame buffer
shorter than N(i) faults (R113). `performed` is the state after steps 4 to 6. -/
def dispatchCommand (i : Instr) (s performed : State) : State :=
  if s.halted then s
  else if s.cfg.fbLen < bytesNeeded i then raiseFault .bufferTooSmall (encodeByte i) s
  else performed

/-- The end of a generate command: its frame is in FB and `SEQ <- INC(SEQ)` (R83, R103). -/
def completeGenerate (s : State) (frame : Memory) : State := (s.setFb frame).setSeq (inc s.seq)

/-- Whether FB holds the frame-control pattern of command `i`'s frame type, read only when VALIDATE_FC is true (R69); none
if a byte it reads is unwritten (R117 step 4). -/
def frameControlMatches (i : Instr) (s : State) : Option Bool :=
  if s.cfg.validateFc then
    (s.fb.readBytes 0 (frameControl s.cfg i).length).map fun v => v.toList == frameControl s.cfg i
  else some true

/-- Steps 4 to 6 of R117 for a decode command `i` whose output bytes have been read from FB: an unwritten byte records
UnwrittenRead, a frame-control mismatch faults (R114), and otherwise `outputs` is the state with the outputs written. -/
def performDecode (i : Instr) (s : State) (outputs : Option State) : State :=
  match frameControlMatches i s, outputs with
  | some true, some t => t
  | some false, some _ => raiseFault .unexpectedFrameType (encodeByte i) s
  | none, _ => recordUnwrittenRead s
  | _, none => recordUnwrittenRead s

end Sys2Proof.Machine
end

