-- ==== Sys2Proof/Machine/Extract.lean ====
section
/-! DEFINITION. The decode commands (41_decode.md): each extracts source addresses from FB into the output registers, and
writes neither FB nor SEQ (R94). With VALIDATE_FC false nothing in FB is checked (R93). -/

namespace Sys2Proof.Machine

/-- DEC_BLINK (R90). -/
def execDecBlink (s : State) : Host.Outcome State Fault Refusal :=
  .next <| dispatchCommand .decBlink s <| performDecode .decBlink s <|
    match s.fb.readBytes 2 8, s.fb.readBytes 10 2 with
    | some l, some h => some ((s.setOutLong (Reg.ofBytes (rev l))).setOutShort (Reg.ofBytes (rev h)))
    | _, _ => none

/-- DEC_SHORT (R91): OUT_LONG is not written. -/
def execDecShort (s : State) : Host.Outcome State Fault Refusal :=
  .next <| dispatchCommand .decShort s <| performDecode .decShort s <|
    match s.fb.readBytes 7 2 with
    | some h => some (s.setOutShort (Reg.ofBytes (rev h)))
    | none => none

/-- DEC_LONG (R92). -/
def execDecLong (s : State) : Host.Outcome State Fault Refusal :=
  .next <| dispatchCommand .decLong s <| performDecode .decLong s <|
    match s.fb.readBytes 21 2, s.fb.readBytes 13 8 with
    | some h, some l => some ((s.setOutShort (Reg.ofBytes (rev h))).setOutLong (Reg.ofBytes (rev l)))
    | _, _ => none

end Sys2Proof.Machine
end

