-- ==== Sys2Proof/Machine/Generate.lean ====
section
/-! DEFINITION. The generate commands (40_generate.md): each writes its frame into FB and then increments SEQ. The writes
stand in the order of the spec's pseudocode. -/

namespace Sys2Proof.Machine

/-- GEN_BLINK (R80). -/
def execGenBlink (s : State) : Host.Outcome State Fault Refusal :=
  .next <| dispatchCommand .genBlink s <|
    match s.srcLong.bytes, s.srcShort.bytes with
    | some l, some h =>
      completeGenerate s <|
        (((s.fb.writeBytes 0 [s.cfg.fcBlink]).writeBytes 1 [s.seq]).writeBytes 2 (rev l).toList).writeBytes 10
          (rev h).toList
    | _, _ => recordUnwrittenRead s

/-- GEN_SHORT (R81), with its zero-fill of FB[0..min(ZF_LEN, FB_LEN)-1] first (90_conflicts.md C1). -/
def execGenShort (s : State) : Host.Outcome State Fault Refusal :=
  .next <| dispatchCommand .genShort s <|
    match s.dstShort.bytes, s.srcShort.bytes with
    | some d, some h =>
      completeGenerate s <|
        ((((((s.fb.zeroFill (min s.cfg.zfLen s.cfg.fbLen)).writeBytes 0 [s.cfg.fc1]).writeBytes 1
          [s.cfg.fc2Short]).writeBytes 2 [s.seq]).writeBytes 3 panId).writeBytes 5 (rev d).toList).writeBytes 7
          (rev h).toList
    | _, _ => recordUnwrittenRead s

/-- GEN_LONG (R82): no zero-fill. -/
def execGenLong (s : State) : Host.Outcome State Fault Refusal :=
  .next <| dispatchCommand .genLong s <|
    match s.dstLong.bytes, s.srcLong.bytes, s.srcShort.bytes with
    | some dl, some sl, some h =>
      completeGenerate s <|
        ((((((s.fb.writeBytes 0 [s.cfg.fc1]).writeBytes 1 [s.cfg.fc2Long]).writeBytes 2 [s.seq]).writeBytes 3
          panId).writeBytes 5 (rev dl).toList).writeBytes 13 (rev sl).toList).writeBytes 21 (rev h).toList
    | _, _, _ => recordUnwrittenRead s

end Sys2Proof.Machine
end

