-- ==== Sys2Proof/Machine/Dispatch.lean ====
section
/-! DEFINITION. One arm per command: its meaning. -/

namespace Sys2Proof.Machine

/-- Command `i` issued to a block in state `s` (R62). -/
def exec (i : Instr) (s : State) : Host.Outcome State Fault Refusal :=
  match i with
  | .genBlink => Sys2Proof.Machine.execGenBlink s
  | .genShort => Sys2Proof.Machine.execGenShort s
  | .genLong => Sys2Proof.Machine.execGenLong s
  | .decBlink => Sys2Proof.Machine.execDecBlink s
  | .decShort => Sys2Proof.Machine.execDecShort s
  | .decLong => Sys2Proof.Machine.execDecLong s

end Sys2Proof.Machine
end

