-- ==== Sys2Proof/Machine/Bus.lean ====
section
/-! DEFINITION. The host's port: the address map (R43), host writes (R44), commands (R30, R117), host reads (R45), the
accesses the map refuses (R46), and reset (R130). -/

namespace Sys2Proof.Machine

/-- What a host address names (R43); a reserved address names nothing. -/
inductive HostLoc where
  /-- CMD, write-only. -/
  | cmd
  /-- ERR_CAUSE, read-only. -/
  | errCause
  /-- ERR_CMD, read-only. -/
  | errCmd
  /-- SRC_SHORT[k], read-write. -/
  | srcShort (k : Fin 2)
  /-- DST_SHORT[k], read-write. -/
  | dstShort (k : Fin 2)
  /-- SRC_LONG[k], read-write. -/
  | srcLong (k : Fin 8)
  /-- DST_LONG[k], read-write. -/
  | dstLong (k : Fin 8)
  /-- OUT_SHORT[k], read-only. -/
  | outShort (k : Fin 2)
  /-- OUT_LONG[k], read-only. -/
  | outLong (k : Fin 8)
  /-- FB[i], read-write. -/
  | fb (i : Nat)
deriving DecidableEq, Repr

/-- The map of R43; none is a reserved address. The frame buffer's window is FB_LEN bytes from 0x0100. -/
def hostMap (c : Config) (a : HostAddr) : Option HostLoc :=
  let n := a.toNat
  if n = 0x0000 then some .cmd
  else if n = 0x0001 then some .errCause
  else if n = 0x0002 then some .errCmd
  else if _h3 : n < 0x0004 then none
  else if _h4 : n < 0x0006 then some (.srcShort ⟨n - 0x0004, by omega⟩)
  else if _h6 : n < 0x0008 then some (.dstShort ⟨n - 0x0006, by omega⟩)
  else if _h8 : n < 0x0010 then some (.srcLong ⟨n - 0x0008, by omega⟩)
  else if _h10 : n < 0x0018 then some (.dstLong ⟨n - 0x0010, by omega⟩)
  else if _h18 : n < 0x001A then some (.outShort ⟨n - 0x0018, by omega⟩)
  else if _h1A : n < 0x0020 then none
  else if _h20 : n < 0x0028 then some (.outLong ⟨n - 0x0020, by omega⟩)
  else if n < 0x0100 then none
  else if n < 0x0100 + c.fbLen then some (.fb (n - 0x0100))
  else none

/-- The CMD port's address (R30, R43). -/
def cmdAddr : HostAddr := 0x0000

/-- A host write of byte `c` to CMD (R117): a command, or the fault ILLEGAL_COMMAND (R112) unless the block is halted
(R116). -/
def issueCommand (c : Byte) (s : State) : Host.Outcome State Fault Refusal :=
  match decode [c] with
  | .ok (i, _) => exec i s
  | .error _ => .next (if s.halted then s else raiseFault .illegalCommand c s)

/-- A host write of byte `v` to address `a` (R44, R46, R50). -/
def hostWrite (a : HostAddr) (v : Byte) (s : State) : Host.Outcome State Fault Refusal :=
  match hostMap s.cfg a with
  | some .cmd => issueCommand v s
  | some (.srcShort k) => .next (s.setSrcShort (s.srcShort.setByte k v))
  | some (.dstShort k) => .next (s.setDstShort (s.dstShort.setByte k v))
  | some (.srcLong k) => .next (s.setSrcLong (s.srcLong.setByte k v))
  | some (.dstLong k) => .next (s.setDstLong (s.dstLong.setByte k v))
  | some (.fb i) => .next (s.setFb (s.fb.write i v))
  | some .errCause => .refused (.writeToReadOnly a)
  | some .errCmd => .refused (.writeToReadOnly a)
  | some (.outShort _) => .refused (.writeToReadOnly a)
  | some (.outLong _) => .refused (.writeToReadOnly a)
  | none => .refused (.reservedAddress a)

/-- A host read of address `a` answered with `v`; with no known byte there, UnwrittenRead (R45, R118). -/
def answerRead (a : HostAddr) (v : Option Byte) (s : State) : Host.Outcome State Fault Refusal :=
  match v with
  | some b => .next (s.answer { addr := a, data := b })
  | none => .next (recordUnwrittenRead s)

/-- A host read of address `a` (R45, R46). -/
def hostRead (a : HostAddr) (s : State) : Host.Outcome State Fault Refusal :=
  match hostMap s.cfg a with
  | some .errCause => answerRead a (some s.errCause) s
  | some .errCmd => answerRead a (some s.errCmd) s
  | some (.srcShort k) => answerRead a s.srcShort[k].read s
  | some (.dstShort k) => answerRead a s.dstShort[k].read s
  | some (.srcLong k) => answerRead a s.srcLong[k].read s
  | some (.dstLong k) => answerRead a s.dstLong[k].read s
  | some (.outShort k) => answerRead a s.outShort[k].read s
  | some (.outLong k) => answerRead a s.outLong[k].read s
  | some (.fb i) => answerRead a (s.fb.read i) s
  | some .cmd => .refused (.readOfCommandPort a)
  | none => .refused (.reservedAddress a)

/-- One host transaction (R54, R59). -/
def transact (t : Transaction) (s : State) : Host.Outcome State Fault Refusal :=
  match t with
  | .write a v => hostWrite a v s
  | .read a => hostRead a s
  | .reset => .next (assertReset s)

/-- The block's next event (R54): the host's oldest transaction, taken off the list and performed. DESIGN CHOICE (log
entry 1): with none pending the block does nothing. -/
def nextEvent (s : State) : Host.Outcome State Fault Refusal :=
  match s.pending with
  | [] => .next s
  | t :: rest => transact t (s.setPending rest)

/-- The host transaction that issues command byte `c` (R70). -/
def commandWrite (c : Byte) : Transaction := .write cmdAddr c

end Sys2Proof.Machine
end

