-- ==== Sys2Proof/Machine/Step.lean ====
section
/-! DEFINITION. One step of the machine: the next event on the host's port (R54). -/

namespace Sys2Proof.Machine

/-- One step (R49, R54): one host transaction, with the whole command it issues. -/
def step (s : State) : Host.Outcome State Fault Refusal := nextEvent s

/-- `s` with the host about to write the bytes of `w` to CMD, first byte first: the block takes its instructions from
there and from nowhere else (R33, R60). -/
def State.withFetchWord (s : State) (nbits w : Nat) : State :=
  s.setPending ((tableBytes nbits w).map commandWrite ++ s.pending)

end Sys2Proof.Machine
end

