-- ==== Sys2Proof/Machine/Program.lean ====
section
/-! DEFINITION. The assembler's lines and the host transactions they stand for (R70, R71). -/

namespace Sys2Proof.Machine

/-- A line of a program: the forms of R70 and the pseudo-instructions of R71. -/
inductive Line where
  /-- `WR a, v`. -/
  | wr (a : HostAddr) (v : Byte)
  /-- `RD a`. -/
  | rd (a : HostAddr)
  /-- A command's mnemonic. -/
  | mnemonic (i : Instr)
  /-- `CMD v`, illegal bytes included. -/
  | cmd (v : Byte)
  /-- `RESET`. -/
  | reset
  /-- `LD_SRC_SHORT b0, b1`. -/
  | ldSrcShort (v : Bytes 2)
  /-- `LD_DST_SHORT b0, b1`. -/
  | ldDstShort (v : Bytes 2)
  /-- `LD_SRC_LONG b0, ..., b7`. -/
  | ldSrcLong (v : Bytes 8)
  /-- `LD_DST_LONG b0, ..., b7`. -/
  | ldDstLong (v : Bytes 8)
  /-- `LD_FB i, b0, ..., b(m-1)`. -/
  | ldFb (i : Nat) (bs : List Byte)
  /-- `RD_FB i, m`. -/
  | rdFb (i m : Nat)
  /-- `RD_OUT_SHORT`. -/
  | rdOutShort
  /-- `RD_OUT_LONG`. -/
  | rdOutLong
  /-- `RD_ERR`. -/
  | rdErr
deriving DecidableEq, Repr

/-- Writes of consecutive bytes from host address `a` on, in order (R71). DESIGN CHOICE (assumption 12): R71 bounds no
address. An address above 0xFFFF is cut to its low 16 bits here, and no program holds such a write, since `assemble` refuses
the line (`Line.addressable`). Safe. -/
def writesFrom : Nat → List Byte → List Transaction
  | _, [] => []
  | a, b :: bs => .write (BitVec.ofNat 16 a) b :: writesFrom (a + 1) bs

/-- Reads of `m` consecutive bytes from host address `a` on, in order (R71). DESIGN CHOICE (assumption 12): as for
`writesFrom`, an address above 0xFFFF is cut to its low 16 bits, and `assemble` refuses the line. Safe. -/
def readsFrom : Nat → Nat → List Transaction
  | _, 0 => []
  | a, m + 1 => .read (BitVec.ofNat 16 a) :: readsFrom (a + 1) m

/-- Every address in the line's expansion is a host address, 16 bits wide (R8, R43). Only LD_FB and RD_FB can fail it. -/
def Line.addressable : Line → Bool
  | .ldFb i bs => bs.length == 0 || decide (0x0100 + i + bs.length ≤ 0x10000)
  | .rdFb i m => m == 0 || decide (0x0100 + i + m ≤ 0x10000)
  | .wr _ _ => true
  | .rd _ => true
  | .mnemonic _ => true
  | .cmd _ => true
  | .reset => true
  | .ldSrcShort _ => true
  | .ldDstShort _ => true
  | .ldSrcLong _ => true
  | .ldDstLong _ => true
  | .rdOutShort => true
  | .rdOutLong => true
  | .rdErr => true

/-- The host transactions an addressable line stands for (R70, R71). -/
def Line.expand : Line → List Transaction
  | .wr a v => [.write a v]
  | .rd a => [.read a]
  | .mnemonic i => [commandWrite (encodeByte i)]
  | .cmd v => [commandWrite v]
  | .reset => [.reset]
  | .ldSrcShort v => writesFrom 0x0004 v.toList
  | .ldDstShort v => writesFrom 0x0006 v.toList
  | .ldSrcLong v => writesFrom 0x0008 v.toList
  | .ldDstLong v => writesFrom 0x0010 v.toList
  | .ldFb i bs => writesFrom (0x0100 + i) bs
  | .rdFb i m => readsFrom (0x0100 + i) m
  | .rdOutShort => readsFrom 0x0018 2
  | .rdOutLong => readsFrom 0x0020 8
  | .rdErr => readsFrom 0x0001 2

/-- A program is its list of transactions (R70). DESIGN CHOICE (assumption 12): `none` where a line names an address of more
than 16 bits, for which the spec gives no transaction: the program is refused, as R46 refuses one that names a reserved
address. Safe. -/
def assemble (lines : List Line) : Option (List Transaction) :=
  if lines.all Line.addressable then some (lines.flatMap Line.expand) else none

end Sys2Proof.Machine
end

