-- ==== Sys2Proof/WellFormed.lean ====
section
/-! DEFINITION. What well-formed terms are: an instruction (no operand can be wrong, R60, R64) and a configuration (R6). -/

namespace Sys2Proof

/-- Every instruction is well formed: a command has no operand field, immediate or prefix (R60, R64). -/
def Instr.WellFormed : Instr → Bool
  | .genBlink => true
  | .genShort => true
  | .genLong => true
  | .decBlink => true
  | .decShort => true
  | .decLong => true

/-- A configuration a block can have: 0 <= FB_LEN <= 65280; the other parameters are unconstrained (R6, R69). -/
def Config.WellFormed (c : Config) : Bool := decide (c.fbLen ≤ Config.maxFbLen)

end Sys2Proof
end

