-- ==== Sys2Proof/Safety.lean ====
section
/-! DEFINITION. What claims about the block speak of: a good state (R116), the machine's invariant, which commands
complete, how many generates a run completes (R104), and when two states differ only in bytes nobody has written (R36,
R118). -/

namespace Sys2Proof.Machine

/-- No fault recorded in the block and none of the model's: the postcondition R116 asks of every claim. -/
def State.good (s : State) : Bool := s.errCause == 0x00 && !s.unwrittenRead

/-- The bytes a command reads outside the frame-control check are all written (R48, R117 step 4). -/
def operandsWritten (i : Instr) (s : State) : Bool :=
  match i with
  | .genBlink => s.srcLong.bytes.isSome && s.srcShort.bytes.isSome
  | .genShort => s.srcShort.bytes.isSome && s.dstShort.bytes.isSome
  | .genLong => s.srcShort.bytes.isSome && s.srcLong.bytes.isSome && s.dstLong.bytes.isSome
  | .decBlink => (s.fb.readBytes 2 10).isSome
  | .decShort => (s.fb.readBytes 7 2).isSome
  | .decLong => (s.fb.readBytes 13 10).isSome

/-- ERR_CAUSE and ERR_CMD agree (R31, R32, R111): 0 with 0; 1 with a byte that is no command; 2 with a command longer than
FB; 3 with a decode command of a block that validates. -/
def State.errorLegal (s : State) : Bool :=
  if s.errCause = 0x00 then s.errCmd == 0x00
  else if s.errCause = 0x01 then
    match decodeByte s.errCmd with
    | .ok _ => false
    | .error _ => true
  else if s.errCause = 0x02 then
    match decodeByte s.errCmd with
    | .ok i => decide (s.cfg.fbLen < bytesNeeded i)
    | .error _ => false
  else if s.errCause = 0x03 then
    match decodeByte s.errCmd with
    | .ok i => i.isDecode && s.cfg.validateFc && decide (bytesNeeded i ≤ s.cfg.fbLen)
    | .error _ => false
  else false

/-- Every listed offset of FB is one FB has (R27). -/
def State.fbInRange (s : State) : Bool := s.fb.all fun c => decide (c.1 < s.cfg.fbLen)

/-- The machine's invariant: a legal configuration (R6), FB in canonical form and within FB_LEN (R27), and legal status
registers (R31, R32). -/
def State.inv (s : State) : Bool := s.cfg.WellFormed && Memory.wf s.fb && s.fbInRange && s.errorLegal

/-- The generate command the next transaction issues, if it is one and it will complete (R103, R117). -/
def State.completingGenerate (s : State) : Option Instr :=
  match s.pending with
  | .write a c :: _ =>
    if a = cmdAddr then
      match decodeByte c with
      | .ok i =>
        if !i.isDecode && !s.halted && decide (bytesNeeded i ≤ s.cfg.fbLen) && operandsWritten i s then some i else none
      | .error _ => none
    else none
  | _ => none

/-- How many of the next `k` steps from `s` complete a generate command (R104). -/
def generatesCompleted : Nat → State → Nat
  | 0, _ => 0
  | k + 1, s =>
    match step s with
    | .next t => (if s.completingGenerate.isSome then 1 else 0) + generatesCompleted k t
    | .fault _ => 0
    | .refused _ => 0

/-- Where a generated frame holds its sequence number (R35, R65). -/
def sequenceOffset : Instr → Nat
  | .genBlink => 1
  | .genShort => 2
  | .genLong => 2
  | .decBlink => 1
  | .decShort => 2
  | .decLong => 2

/-- Two registers whose known bytes are the same: they may differ in the values under unwritten marks (R36). -/
def Reg.sameKnown {n : Nat} (r q : Reg n) : Bool := decide (∀ k : Fin n, r[k].read = q[k].read)

/-- Two states that differ at most in the values of register bytes nobody has written (R36). FB has no value for such a
byte, so it is equal. -/
def State.sameKnown (s t : State) : Bool :=
  s.cfg == t.cfg && s.seq == t.seq && s.srcShort.sameKnown t.srcShort && s.dstShort.sameKnown t.dstShort &&
    s.srcLong.sameKnown t.srcLong && s.dstLong.sameKnown t.dstLong && s.fb == t.fb && s.outShort.sameKnown t.outShort &&
    s.outLong.sameKnown t.outLong && s.errCause == t.errCause && s.errCmd == t.errCmd &&
    s.unwrittenRead == t.unwrittenRead && s.pending == t.pending && s.answers == t.answers

/-- Two outcomes of the same kind that agree in what is known. -/
def sameKnownOutcome (o p : Host.Outcome State Fault Refusal) : Prop :=
  match o, p with
  | .next s, .next t => s.sameKnown t = true
  | .refused r, .refused q => r = q
  | .fault e, .fault d => e = d
  | _, _ => False

end Sys2Proof.Machine
end

