-- ==== Sys2Proof/Certificates/Slice0/Obligations.lean ====
section
/-! DEFINITION. The statements for the provers. Each docstring names the rule or the section of spec/ it formalises. A
statement quantifies over every state, so over every configuration of R6, since the configuration stands in the state. -/

open Sys2Proof Sys2Proof.Machine

/-! ### Encoding -/

/-- R60: every command is exactly one byte, so a list of bytes decodes to a list of commands exactly when it is their
encoding. -/
def Obligations.StreamDecodeEncodeAgree : Prop :=
  ∀ (cmds : List Instr) (bytes : List Byte), decodeStream bytes = .ok cmds ↔ bytes = encodeStream cmds

/-- R62: the opcode map; the match is the whole byte. -/
def Obligations.OpcodeMapIsTheTable : Prop :=
  (∀ c : Byte, decodeByte c = .ok .genBlink ↔ c = 0x01) ∧ (∀ c : Byte, decodeByte c = .ok .genShort ↔ c = 0x02) ∧
  (∀ c : Byte, decodeByte c = .ok .genLong ↔ c = 0x03) ∧ (∀ c : Byte, decodeByte c = .ok .decBlink ↔ c = 0x05) ∧
  (∀ c : Byte, decodeByte c = .ok .decShort ↔ c = 0x06) ∧ (∀ c : Byte, decodeByte c = .ok .decLong ↔ c = 0x07) ∧
  encode .genBlink = [0x01] ∧ encode .genShort = [0x02] ∧ encode .genLong = [0x03] ∧
  encode .decBlink = [0x05] ∧ encode .decShort = [0x06] ∧ encode .decLong = [0x07]

/-- R61: c[7:3] must be zero, c[2] is the direction, c[1:0] the frame type, with 0b00 illegal. The frame type is told here
by the frame's length (12 blink, 9 short-MAC, 23 long-MAC). -/
def Obligations.CommandByteFields : Prop :=
  ∀ c : Byte,
    ((c.extractLsb' 3 5 ≠ 0 ∨ c.extractLsb' 0 2 = 0) → ∃ e, decodeByte c = .error e) ∧
    (c.extractLsb' 3 5 = 0 → c.extractLsb' 0 2 ≠ 0 → ∃ i, decodeByte c = .ok i ∧
      (i.isDecode = true ↔ c.extractLsb' 2 1 = 1) ∧ (bytesNeeded i = 12 ↔ c.extractLsb' 0 2 = 1) ∧
      (bytesNeeded i = 9 ↔ c.extractLsb' 0 2 = 2) ∧ (bytesNeeded i = 23 ↔ c.extractLsb' 0 2 = 3))

/-- R63 and R112: 0x00, 0x04 and every byte from 0x08 on are illegal, and no other byte is; an illegal byte written to CMD
of a block that is not halted raises ILLEGAL_COMMAND, cause code 1 (R111), and ERR_CMD records the byte. -/
def Obligations.IllegalByteRaisesIllegalCommand : Prop :=
  (∀ (s : State) (c : Byte) (rest : List Transaction), (c = 0x00 ∨ c = 0x04 ∨ 0x08 ≤ c.toNat) → s.errCause = 0x00 →
    s.pending = .write 0x0000 c :: rest →
    step s = .next { s with pending := rest, errCause := 0x01, errCmd := c }) ∧
  (∀ c : Byte, c ≠ 0x00 → c ≠ 0x04 → c.toNat < 0x08 → ∃ i, decodeByte c = .ok i)

/-! ### A step runs the command -/

/-- R30, R50, R54: a host write of a command byte to CMD makes the step that command's own meaning on the state with the
transaction taken off the list; a word placed by `withFetchWord` is run by the very next step. -/
def Obligations.StepRunsTheDecodedCommand : Prop :=
  (∀ (s : State) (c : Byte) (i : Instr) (rest : List Transaction), s.pending = .write 0x0000 c :: rest →
    decode [c] = .ok (i, []) → step s = exec i { s with pending := rest }) ∧
  (∀ (s : State) (w : Nat) (i : Instr), decodeTableWord 8 w = some i → step (s.withFetchWord 8 w) = exec i s)

/-! ### The helper functions and the state's parts -/

/-- R100, R101: REV_n puts byte n-1-i at index i, undoes itself, and keeps distinct addresses distinct. -/
def Obligations.ReversalByIndexAndInvolution : Prop :=
  (∀ b0 b1 : Byte, rev #v[b0, b1] = #v[b1, b0]) ∧
  (∀ b0 b1 b2 b3 b4 b5 b6 b7 : Byte,
    rev #v[b0, b1, b2, b3, b4, b5, b6, b7] = #v[b7, b6, b5, b4, b3, b2, b1, b0]) ∧
  (∀ (n : Nat) (v : Bytes n) (k : Fin n), (rev v)[k] = v[n - 1 - k.val]) ∧
  (∀ (n : Nat) (v : Bytes n), rev (rev v) = v) ∧
  (∀ (n : Nat) (v w : Bytes n), rev v = rev w → v = w)

/-- R13: an address denotes the integer whose most significant byte is index 0, and on the wire the same integer stands
least significant byte first. -/
def Obligations.WireOrderIsLittleEndian : Prop :=
  ∀ (n : Nat) (v : Bytes n),
    addressValue v = ∑ k : Fin n, v[k].toNat * 256 ^ (n - 1 - k.val) ∧
    readLittleEndian (rev v).toList = addressValue v

/-- R103 (the function INC): plus one modulo 256. -/
def Obligations.IncrementIsModulo256 : Prop :=
  inc 0xFF = 0x00 ∧ ∀ s : Byte, (inc s).toNat = (s.toNat + 1) % 256

/-- R11: MemWrite(i, n, v) writes v[k] to FB[i+k] and no other byte, and MemRead(i, n) then returns v; in every memory,
canonical or not. -/
def Obligations.MemWriteThenMemRead : Prop :=
  ∀ (m : Memory) (i n : Nat) (v : Bytes n),
    (∀ k : Fin n, (m.writeBytes i v.toList).read (i + k.val) = some v[k]) ∧
    (∀ j, j < i ∨ i + n ≤ j → (m.writeBytes i v.toList).read j = m.read j) ∧
    (m.writeBytes i v.toList).readBytes i n = some v

/-- R36: a register can be read whole exactly when none of its bytes is marked unwritten, and then gives those bytes;
writing byte k clears that one mark. -/
def Obligations.UnwrittenMarksGuardRegisters : Prop :=
  ∀ (n : Nat) (r : Reg n),
    (∀ v : Bytes n, r.bytes = some v ↔ ∀ k : Fin n, r[k].unwritten = false ∧ r[k].value = v[k]) ∧
    (r.bytes = none ↔ ∃ k : Fin n, r[k].unwritten = true) ∧
    (∀ (k j : Fin n) (b : Byte), (r.setByte k b)[j] = if j = k then { value := b, unwritten := false } else r[j])

/-! ### The generate commands -/

/-- R80: GEN_BLINK on a block that is not halted. Too small a buffer faults; an unwritten operand byte records
UnwrittenRead; otherwise the blink frame is written and SEQ goes up by one modulo 256, and nothing else changes. -/
def Obligations.GenBlinkWritesBlinkFrame : Prop :=
  encode .genBlink = [0x01] ∧
  ∀ s : State, s.errCause = 0x00 →
    (s.cfg.fbLen < 12 → exec .genBlink s = .next { s with errCause := 0x02, errCmd := 0x01 }) ∧
    (12 ≤ s.cfg.fbLen → ((∃ k : Fin 8, s.srcLong[k].unwritten = true) ∨ ∃ k : Fin 2, s.srcShort[k].unwritten = true) →
      exec .genBlink s = .next { s with unwrittenRead := true }) ∧
    ∀ (l : Bytes 8) (h : Bytes 2), 12 ≤ s.cfg.fbLen → s.srcLong = Reg.ofBytes l → s.srcShort = Reg.ofBytes h →
      ∃ m : Memory, exec .genBlink s = .next { s with fb := m, seq := s.seq + 1 } ∧
        m.read 0 = some s.cfg.fcBlink ∧ m.read 1 = some s.seq ∧
        (∀ k : Fin 8, m.read (2 + k.val) = some l[7 - k.val]) ∧
        m.read 10 = some h[1] ∧ m.read 11 = some h[0] ∧
        ∀ a, 12 ≤ a → m.read a = s.fb.read a

/-- R81: GEN_SHORT on a block that is not halted, with the zero-fill of FB[9..min(ZF_LEN, FB_LEN)-1]. -/
def Obligations.GenShortWritesShortFrame : Prop :=
  encode .genShort = [0x02] ∧
  ∀ s : State, s.errCause = 0x00 →
    (s.cfg.fbLen < 9 → exec .genShort s = .next { s with errCause := 0x02, errCmd := 0x02 }) ∧
    (9 ≤ s.cfg.fbLen → ((∃ k : Fin 2, s.srcShort[k].unwritten = true) ∨ ∃ k : Fin 2, s.dstShort[k].unwritten = true) →
      exec .genShort s = .next { s with unwrittenRead := true }) ∧
    ∀ d h : Bytes 2, 9 ≤ s.cfg.fbLen → s.dstShort = Reg.ofBytes d → s.srcShort = Reg.ofBytes h →
      ∃ m : Memory, exec .genShort s = .next { s with fb := m, seq := s.seq + 1 } ∧
        m.read 0 = some s.cfg.fc1 ∧ m.read 1 = some s.cfg.fc2Short ∧ m.read 2 = some s.seq ∧
        m.read 3 = some 0xCA ∧ m.read 4 = some 0xDE ∧
        m.read 5 = some d[1] ∧ m.read 6 = some d[0] ∧ m.read 7 = some h[1] ∧ m.read 8 = some h[0] ∧
        (∀ a, 9 ≤ a → a < min s.cfg.zfLen s.cfg.fbLen → m.read a = some 0x00) ∧
        ∀ a, 9 ≤ a → min s.cfg.zfLen s.cfg.fbLen ≤ a → m.read a = s.fb.read a

/-- R82: GEN_LONG on a block that is not halted; no zero-fill, and DST_SHORT is not read. -/
def Obligations.GenLongWritesLongFrame : Prop :=
  encode .genLong = [0x03] ∧
  ∀ s : State, s.errCause = 0x00 →
    (s.cfg.fbLen < 23 → exec .genLong s = .next { s with errCause := 0x02, errCmd := 0x03 }) ∧
    (23 ≤ s.cfg.fbLen → ((∃ k : Fin 2, s.srcShort[k].unwritten = true) ∨ (∃ k : Fin 8, s.srcLong[k].unwritten = true) ∨
        ∃ k : Fin 8, s.dstLong[k].unwritten = true) →
      exec .genLong s = .next { s with unwrittenRead := true }) ∧
    ∀ (dl sl : Bytes 8) (h : Bytes 2), 23 ≤ s.cfg.fbLen → s.dstLong = Reg.ofBytes dl → s.srcLong = Reg.ofBytes sl →
      s.srcShort = Reg.ofBytes h →
      ∃ m : Memory, exec .genLong s = .next { s with fb := m, seq := s.seq + 1 } ∧
        m.read 0 = some s.cfg.fc1 ∧ m.read 1 = some s.cfg.fc2Long ∧ m.read 2 = some s.seq ∧
        m.read 3 = some 0xCA ∧ m.read 4 = some 0xDE ∧
        (∀ k : Fin 8, m.read (5 + k.val) = some dl[7 - k.val]) ∧
        (∀ k : Fin 8, m.read (13 + k.val) = some sl[7 - k.val]) ∧
        m.read 21 = some h[1] ∧ m.read 22 = some h[0] ∧
        ∀ a, 23 ≤ a → m.read a = s.fb.read a

/-- R84, R48, R51: whatever a generate command's outcome, it writes no operand or output register; it writes ERR_CAUSE and
ERR_CMD only by faulting, and then writes nothing else; SEQ moves only when the frame is written; and no byte of FB outside
its frame changes, GEN_SHORT's zero-fill apart. -/
def Obligations.GenerateCommandsFrame : Prop :=
  ∀ (i : Instr) (s t : State), i.isDecode = false → exec i s = .next t →
    t.cfg = s.cfg ∧ t.srcShort = s.srcShort ∧ t.dstShort = s.dstShort ∧ t.srcLong = s.srcLong ∧ t.dstLong = s.dstLong ∧
    t.outShort = s.outShort ∧ t.outLong = s.outLong ∧ t.pending = s.pending ∧ t.answers = s.answers ∧
    ((t.errCause = s.errCause ∧ t.errCmd = s.errCmd) ∨ t = { s with errCause := 0x02, errCmd := encodeByte i }) ∧
    (t.unwrittenRead = s.unwrittenRead ∨ t = { s with unwrittenRead := true }) ∧
    (t.seq = s.seq + 1 ∨ (t.seq = s.seq ∧ t.fb = s.fb)) ∧
    ∀ a, bytesNeeded i ≤ a → (i = .genShort → min s.cfg.zfLen s.cfg.fbLen ≤ a) → t.fb.read a = s.fb.read a

/-! ### The decode commands -/

/-- R90: DEC_BLINK on a block that is not halted. -/
def Obligations.DecBlinkExtractsAddresses : Prop :=
  encode .decBlink = [0x05] ∧
  ∀ s : State, s.errCause = 0x00 →
    (s.cfg.fbLen < 12 → exec .decBlink s = .next { s with errCause := 0x02, errCmd := 0x05 }) ∧
    (12 ≤ s.cfg.fbLen →
      ((∃ a, 2 ≤ a ∧ a ≤ 11 ∧ s.fb.read a = none) ∨ (s.cfg.validateFc = true ∧ s.fb.read 0 = none)) →
      exec .decBlink s = .next { s with unwrittenRead := true }) ∧
    ∀ (l : Bytes 8) (h : Bytes 2), 12 ≤ s.cfg.fbLen → (∀ k : Fin 8, s.fb.read (9 - k.val) = some l[k]) →
      s.fb.read 11 = some h[0] → s.fb.read 10 = some h[1] →
      (∀ b, s.cfg.validateFc = true → s.fb.read 0 = some b → b ≠ s.cfg.fcBlink →
        exec .decBlink s = .next { s with errCause := 0x03, errCmd := 0x05 }) ∧
      ((s.cfg.validateFc = true → s.fb.read 0 = some s.cfg.fcBlink) →
        exec .decBlink s = .next { s with outLong := Reg.ofBytes l, outShort := Reg.ofBytes h })

/-- R91: DEC_SHORT on a block that is not halted; OUT_LONG is not written. -/
def Obligations.DecShortExtractsSource : Prop :=
  encode .decShort = [0x06] ∧
  ∀ s : State, s.errCause = 0x00 →
    (s.cfg.fbLen < 9 → exec .decShort s = .next { s with errCause := 0x02, errCmd := 0x06 }) ∧
    (9 ≤ s.cfg.fbLen →
      (s.fb.read 7 = none ∨ s.fb.read 8 = none ∨
        (s.cfg.validateFc = true ∧ (s.fb.read 0 = none ∨ s.fb.read 1 = none))) →
      exec .decShort s = .next { s with unwrittenRead := true }) ∧
    ∀ h : Bytes 2, 9 ≤ s.cfg.fbLen → s.fb.read 8 = some h[0] → s.fb.read 7 = some h[1] →
      (∀ b0 b1, s.cfg.validateFc = true → s.fb.read 0 = some b0 → s.fb.read 1 = some b1 →
        (b0 ≠ s.cfg.fc1 ∨ b1 ≠ s.cfg.fc2Short) →
        exec .decShort s = .next { s with errCause := 0x03, errCmd := 0x06 }) ∧
      ((s.cfg.validateFc = true → s.fb.read 0 = some s.cfg.fc1 ∧ s.fb.read 1 = some s.cfg.fc2Short) →
        exec .decShort s = .next { s with outShort := Reg.ofBytes h })

/-- R92: DEC_LONG on a block that is not halted. -/
def Obligations.DecLongExtractsSources : Prop :=
  encode .decLong = [0x07] ∧
  ∀ s : State, s.errCause = 0x00 →
    (s.cfg.fbLen < 23 → exec .decLong s = .next { s with errCause := 0x02, errCmd := 0x07 }) ∧
    (23 ≤ s.cfg.fbLen →
      ((∃ a, 13 ≤ a ∧ a ≤ 22 ∧ s.fb.read a = none) ∨
        (s.cfg.validateFc = true ∧ (s.fb.read 0 = none ∨ s.fb.read 1 = none))) →
      exec .decLong s = .next { s with unwrittenRead := true }) ∧
    ∀ (h : Bytes 2) (l : Bytes 8), 23 ≤ s.cfg.fbLen → s.fb.read 22 = some h[0] → s.fb.read 21 = some h[1] →
      (∀ k : Fin 8, s.fb.read (20 - k.val) = some l[k]) →
      (∀ b0 b1, s.cfg.validateFc = true → s.fb.read 0 = some b0 → s.fb.read 1 = some b1 →
        (b0 ≠ s.cfg.fc1 ∨ b1 ≠ s.cfg.fc2Long) →
        exec .decLong s = .next { s with errCause := 0x03, errCmd := 0x07 }) ∧
      ((s.cfg.validateFc = true → s.fb.read 0 = some s.cfg.fc1 ∧ s.fb.read 1 = some s.cfg.fc2Long) →
        exec .decLong s = .next { s with outShort := Reg.ofBytes h, outLong := Reg.ofBytes l })

/-- R94: a decode command writes only its output registers (DEC_SHORT only OUT_SHORT), or, by faulting, only ERR_CAUSE and
ERR_CMD; every byte of FB reads as before. -/
def Obligations.DecodeCommandsFrame : Prop :=
  ∀ (i : Instr) (s t : State), i.isDecode = true → exec i s = .next t →
    t.cfg = s.cfg ∧ t.seq = s.seq ∧ t.srcShort = s.srcShort ∧ t.dstShort = s.dstShort ∧ t.srcLong = s.srcLong ∧
    t.dstLong = s.dstLong ∧ (∀ a, t.fb.read a = s.fb.read a) ∧ t.pending = s.pending ∧ t.answers = s.answers ∧
    (i = .decShort → t.outLong = s.outLong) ∧
    ((t.errCause = s.errCause ∧ t.errCmd = s.errCmd) ∨
      (t.errCmd = encodeByte i ∧ t = { s with errCause := t.errCause, errCmd := t.errCmd })) ∧
    (t.unwrittenRead = s.unwrittenRead ∨ t = { s with unwrittenRead := true })

/-- R93: with VALIDATE_FC false, two frame buffers that hold the same bytes at a decode command's own offsets give the same
output registers and the same status, whatever else they hold. -/
def Obligations.DecodeSeesOnlyItsOffsets : Prop :=
  ∀ (i : Instr) (s : State) (m : Memory) (lo hi : Nat), s.cfg.validateFc = false →
    ((i = .decBlink ∧ lo = 2 ∧ hi = 11) ∨ (i = .decShort ∧ lo = 7 ∧ hi = 8) ∨ (i = .decLong ∧ lo = 13 ∧ hi = 22)) →
    (∀ a, lo ≤ a → a ≤ hi → m.read a = s.fb.read a) →
    ∃ t, exec i s = .next t ∧ exec i { s with fb := m } = .next { t with fb := m }

/-- R95: a decode after the matching generate gives back the source addresses the generate read, also when VALIDATE_FC is
true, as long as the frame buffer still holds what the generate left there. -/
def Obligations.DecodeAfterGenerateRecovers : Prop :=
  (∀ (s t u : State) (l : Bytes 8) (h : Bytes 2), s.errCause = 0x00 → 12 ≤ s.cfg.fbLen → s.srcLong = Reg.ofBytes l →
    s.srcShort = Reg.ofBytes h → exec .genBlink s = .next t → u.errCause = 0x00 → u.cfg = t.cfg → u.fb = t.fb →
    exec .decBlink u = .next { u with outLong := Reg.ofBytes l, outShort := Reg.ofBytes h }) ∧
  (∀ (s t u : State) (d h : Bytes 2), s.errCause = 0x00 → 9 ≤ s.cfg.fbLen → s.dstShort = Reg.ofBytes d →
    s.srcShort = Reg.ofBytes h → exec .genShort s = .next t → u.errCause = 0x00 → u.cfg = t.cfg → u.fb = t.fb →
    exec .decShort u = .next { u with outShort := Reg.ofBytes h }) ∧
  (∀ (s t u : State) (dl sl : Bytes 8) (h : Bytes 2), s.errCause = 0x00 → 23 ≤ s.cfg.fbLen →
    s.dstLong = Reg.ofBytes dl → s.srcLong = Reg.ofBytes sl → s.srcShort = Reg.ofBytes h →
    exec .genLong s = .next t → u.errCause = 0x00 → u.cfg = t.cfg → u.fb = t.fb →
    exec .decLong u = .next { u with outShort := Reg.ofBytes h, outLong := Reg.ofBytes sl })

/-! ### Faults and dispatch -/

/-- R116: a halted block ignores every command and every byte written to CMD, ERR_CAUSE and ERR_CMD keep the first fault
through every step but reset, and a halted state is not good. -/
def Obligations.HaltedBlockIgnoresCommands : Prop :=
  ∀ s : State, s.errCause ≠ 0x00 →
    (∀ i, exec i s = .next s) ∧
    (∀ c rest, s.pending = .write 0x0000 c :: rest → step s = .next { s with pending := rest }) ∧
    (∀ t, step s = .next t → s.pending.head? ≠ some .reset → t.errCause = s.errCause ∧ t.errCmd = s.errCmd) ∧
    s.good = false

/-- R68, R113: N(c) is 12, 9 or 23; a legal command with FB_LEN < N(c) raises BUFFER_TOO_SMALL, cause code 2, and writes
nothing else; with FB_LEN >= 23 no command raises it. -/
def Obligations.ShortBufferRaisesBufferTooSmall : Prop :=
  bytesNeeded .genBlink = 12 ∧ bytesNeeded .genShort = 9 ∧ bytesNeeded .genLong = 23 ∧
  bytesNeeded .decBlink = 12 ∧ bytesNeeded .decShort = 9 ∧ bytesNeeded .decLong = 23 ∧
  ∀ (i : Instr) (s : State), s.errCause = 0x00 →
    (s.cfg.fbLen < bytesNeeded i → exec i s = .next { s with errCause := 0x02, errCmd := encodeByte i }) ∧
    ∀ t, 23 ≤ s.cfg.fbLen → exec i s = .next t → t.errCause ≠ 0x02

/-- R115: a command that raises a fault writes ERR_CAUSE with the cause code and ERR_CMD with the byte the host wrote, and
nothing else: FB, SEQ, the operand registers and the output registers keep their values. -/
def Obligations.FaultsArePrecise : Prop :=
  ∀ (s t : State) (c : Byte) (rest : List Transaction), s.errCause = 0x00 → s.pending = .write 0x0000 c :: rest →
    step s = .next t → t.errCause ≠ 0x00 →
    t = { s with pending := rest, errCause := t.errCause, errCmd := c } ∧
    (t.errCause = 0x01 ∨ t.errCause = 0x02 ∨ t.errCause = 0x03)

/-- R117 (with R114): the order of the checks on a byte written to CMD. `fcUnwritten` and `fcDiffers` speak of the
frame-control bytes, which only a decode with VALIDATE_FC true reads. -/
def Obligations.CommandChecksInOrder : Prop :=
  ∀ (s : State) (c : Byte) (rest : List Transaction), s.pending = .write 0x0000 c :: rest →
    (s.errCause ≠ 0x00 → step s = .next { s with pending := rest }) ∧
    (s.errCause = 0x00 → (∀ i, decodeByte c ≠ .ok i) →
      step s = .next { s with pending := rest, errCause := 0x01, errCmd := c }) ∧
    ∀ i, s.errCause = 0x00 → decodeByte c = .ok i →
      (s.cfg.fbLen < bytesNeeded i → step s = .next { s with pending := rest, errCause := 0x02, errCmd := c }) ∧
      ∀ fcUnwritten fcDiffers : Prop,
        (fcUnwritten ↔ i.isDecode = true ∧ s.cfg.validateFc = true ∧
          ∃ k, k < (frameControl s.cfg i).length ∧ s.fb.read k = none) →
        (fcDiffers ↔ i.isDecode = true ∧ s.cfg.validateFc = true ∧
          ∃ k, k < (frameControl s.cfg i).length ∧ s.fb.read k ≠ (frameControl s.cfg i)[k]?) →
        (bytesNeeded i ≤ s.cfg.fbLen → (operandsWritten i s = false ∨ fcUnwritten) →
          step s = .next { s with pending := rest, unwrittenRead := true }) ∧
        (bytesNeeded i ≤ s.cfg.fbLen → operandsWritten i s = true → ¬fcUnwritten → fcDiffers →
          step s = .next { s with pending := rest, errCause := 0x03, errCmd := c }) ∧
        (bytesNeeded i ≤ s.cfg.fbLen → operandsWritten i s = true → ¬fcDiffers →
          ∃ t, step s = .next t ∧ exec i { s with pending := rest } = .next t ∧ t.errCause = 0x00 ∧
            t.unwrittenRead = s.unwrittenRead)

/-- R48, R117 step 4: which bytes must be written for a command to read its operands. -/
def Obligations.OperandsEachCommandReads : Prop :=
  ∀ s : State,
    (operandsWritten .genBlink s = true ↔
      (∀ k : Fin 8, s.srcLong[k].unwritten = false) ∧ ∀ k : Fin 2, s.srcShort[k].unwritten = false) ∧
    (operandsWritten .genShort s = true ↔
      (∀ k : Fin 2, s.srcShort[k].unwritten = false) ∧ ∀ k : Fin 2, s.dstShort[k].unwritten = false) ∧
    (operandsWritten .genLong s = true ↔
      (∀ k : Fin 2, s.srcShort[k].unwritten = false) ∧ (∀ k : Fin 8, s.srcLong[k].unwritten = false) ∧
        ∀ k : Fin 8, s.dstLong[k].unwritten = false) ∧
    (operandsWritten .decBlink s = true ↔ ∀ a, 2 ≤ a → a ≤ 11 → s.fb.read a ≠ none) ∧
    (operandsWritten .decShort s = true ↔ ∀ a, 7 ≤ a → a ≤ 8 → s.fb.read a ≠ none) ∧
    (operandsWritten .decLong s = true ↔ ∀ a, 13 ≤ a → a ≤ 22 → s.fb.read a ≠ none)

/-- R110: only a host write to CMD raises a fault: no read, no other write and no reset does. -/
def Obligations.OnlyCommandsRaiseFaults : Prop :=
  ∀ s t : State, step s = .next t → s.errCause = 0x00 → t.errCause ≠ 0x00 →
    ∃ c rest, s.pending = .write 0x0000 c :: rest

/-- R118: once recorded, the run's UnwrittenRead mark stays, through every step, reset included; and a step that records it
changes nothing else but taking the transaction off the list. -/
def Obligations.UnwrittenReadMarkIsPermanent : Prop :=
  ∀ s t : State, step s = .next t →
    (s.unwrittenRead = true → t.unwrittenRead = true) ∧
    (s.unwrittenRead = false → t.unwrittenRead = true →
      t = { s with pending := s.pending.tail, unwrittenRead := true })

/-- R118, R36: no step's outcome depends on the value of a byte that nobody has written, so the model gives such a byte no
particular value. -/
def Obligations.UnwrittenValuesDoNotMatter : Prop :=
  ∀ s t : State, s.sameKnown t = true → sameKnownOutcome (step s) (step t)

/-! ### The sequence counter -/

/-- R105: one step changes SEQ only by INC, when it completes a generate command, or by reset, which sets it to 0x00. -/
def Obligations.SeqChangesOnlyByIncOrReset : Prop :=
  ∀ s t : State, step s = .next t →
    (s.pending.head? = some .reset → t.seq = 0x00) ∧
    (s.pending.head? ≠ some .reset → s.completingGenerate.isSome = true → t.seq = s.seq + 1) ∧
    (s.pending.head? ≠ some .reset → s.completingGenerate.isSome = false → t.seq = s.seq)

/-- R104, R83: over any run without a reset SEQ advances by the number of generate commands completed, modulo 256, and the
next generate to complete writes that count as its frame's sequence number; from a reset, SEQ = 0, the count itself. -/
def Obligations.SeqCountsCompletedGenerates : Prop :=
  ∀ (k : Nat) (s t : State), Transaction.reset ∉ s.pending.take k → Host.Core.run Sys2Proof.core k s = .next t →
    t.seq = s.seq + BitVec.ofNat 8 (generatesCompleted k s) ∧
    (s.seq = 0x00 → t.seq = BitVec.ofNat 8 (generatesCompleted k s)) ∧
    ∀ i, t.completingGenerate = some i → ∃ u, step t = .next u ∧ u.fb.read (sequenceOffset i) = some t.seq

/-- R35: the host can neither read nor write SEQ. A transaction that is no reset and no write to CMD leaves SEQ as it is, and
with any other SEQ it does the same: the same answer, the same state but for SEQ, the same refusal. -/
def Obligations.SeqIsHiddenFromTheHost : Prop :=
  ∀ (s : State) (tr : Transaction) (rest : List Transaction) (v : Byte), s.pending = tr :: rest → tr ≠ .reset →
    (∀ c, tr ≠ .write 0x0000 c) →
    (∀ t, step s = .next t → t.seq = s.seq ∧ step { s with seq := v } = .next { t with seq := v }) ∧
    ∀ r, step s = .refused r → step { s with seq := v } = .refused r

/-! ### Reset and the invariant -/

/-- R37: the state right after reset, for every configuration: SEQ, ERR_CAUSE and ERR_CMD are 0x00, and every byte of the
operand registers, FB and the output registers is marked unwritten. What lies under a mark is not stated: the spec leaves it
unspecified (log entry 3). -/
def Obligations.ResetLeavesSpecifiedValues : Prop :=
  ∀ c : Config, (State.resetWith c).seq = 0x00 ∧ (State.resetWith c).errCause = 0x00 ∧
    (State.resetWith c).errCmd = 0x00 ∧
    (∀ k : Fin 2, (State.resetWith c).srcShort[k].unwritten = true ∧ (State.resetWith c).dstShort[k].unwritten = true ∧
      (State.resetWith c).outShort[k].unwritten = true) ∧
    (∀ k : Fin 8, (State.resetWith c).srcLong[k].unwritten = true ∧ (State.resetWith c).dstLong[k].unwritten = true ∧
      (State.resetWith c).outLong[k].unwritten = true) ∧
    ∀ a, (State.resetWith c).fb.read a = none

/-- R130: asserting reset, whatever the block's state, sets every piece of state to the value of R37 in one step and does
not change the parameters; the run's UnwrittenRead mark survives it (R118). -/
def Obligations.ResetTransactionResets : Prop :=
  ∀ (s : State) (rest : List Transaction), s.pending = .reset :: rest →
    ∃ t, step s = .next t ∧ t.seq = 0x00 ∧ t.errCause = 0x00 ∧ t.errCmd = 0x00 ∧
      (∀ k : Fin 2, t.srcShort[k].unwritten = true ∧ t.dstShort[k].unwritten = true ∧ t.outShort[k].unwritten = true) ∧
      (∀ k : Fin 8, t.srcLong[k].unwritten = true ∧ t.dstLong[k].unwritten = true ∧ t.outLong[k].unwritten = true) ∧
      (∀ a, t.fb.read a = none) ∧ t.cfg = s.cfg ∧ t.unwrittenRead = s.unwrittenRead

/-- R39: no command, no host access and no reset changes the parameters. -/
def Obligations.ParametersNeverChange : Prop :=
  ∀ s t : State, step s = .next t → t.cfg = s.cfg

/-- The machine's invariant (`State.inv`): a legal configuration (R6), FB in canonical form and within FB_LEN (R27), and
ERR_CAUSE one of 0, 1, 2, 3 with an ERR_CMD that its cause allows (R31, R32, R111). Every step keeps it. -/
def Obligations.EveryStepKeepsTheInvariant : Prop :=
  ∀ s t : State, s.inv = true → step s = .next t → t.inv = true

/-- The state after reset has the invariant, for every legal configuration, `State.reset`'s own among them. -/
def Obligations.ResetHasTheInvariant : Prop :=
  (∀ c : Config, c.WellFormed = true → (State.resetWith c).inv = true) ∧ State.reset.inv = true

/-! ### The host's port -/

/-- R44, R43: a host write to a read-write address sets that one byte, clears its mark, and changes nothing else, halted or
not; a host write to CMD issues a command. -/
def Obligations.HostWriteStoresOneByte : Prop :=
  ∀ (s : State) (a : HostAddr) (v : Byte) (rest : List Transaction), s.pending = .write a v :: rest →
    (∀ k : Fin 2, a.toNat = 0x0004 + k.val →
      step s = .next { s with pending := rest, srcShort := s.srcShort.set k { value := v, unwritten := false } }) ∧
    (∀ k : Fin 2, a.toNat = 0x0006 + k.val →
      step s = .next { s with pending := rest, dstShort := s.dstShort.set k { value := v, unwritten := false } }) ∧
    (∀ k : Fin 8, a.toNat = 0x0008 + k.val →
      step s = .next { s with pending := rest, srcLong := s.srcLong.set k { value := v, unwritten := false } }) ∧
    (∀ k : Fin 8, a.toNat = 0x0010 + k.val →
      step s = .next { s with pending := rest, dstLong := s.dstLong.set k { value := v, unwritten := false } }) ∧
    (∀ i, i < s.cfg.fbLen → a.toNat = 0x0100 + i →
      ∃ m, step s = .next { s with pending := rest, fb := m } ∧ m.read i = some v ∧
        ∀ j, j ≠ i → m.read j = s.fb.read j) ∧
    (a.toNat = 0x0000 → step s = issueCommand v { s with pending := rest })

/-- R45, R43: a host read of a readable address hands the host the byte there and changes no state of the block; where that
byte is unwritten, UnwrittenRead is recorded. -/
def Obligations.HostReadAnswersTheByte : Prop :=
  ∀ (s : State) (a : HostAddr) (rest : List Transaction) (x : Option Byte), s.pending = .read a :: rest →
    ((a.toNat = 0x0001 ∧ x = some s.errCause) ∨ (a.toNat = 0x0002 ∧ x = some s.errCmd) ∨
      (∃ k : Fin 2, a.toNat = 0x0004 + k.val ∧ x = s.srcShort[k].read) ∨
      (∃ k : Fin 2, a.toNat = 0x0006 + k.val ∧ x = s.dstShort[k].read) ∨
      (∃ k : Fin 8, a.toNat = 0x0008 + k.val ∧ x = s.srcLong[k].read) ∨
      (∃ k : Fin 8, a.toNat = 0x0010 + k.val ∧ x = s.dstLong[k].read) ∨
      (∃ k : Fin 2, a.toNat = 0x0018 + k.val ∧ x = s.outShort[k].read) ∨
      (∃ k : Fin 8, a.toNat = 0x0020 + k.val ∧ x = s.outLong[k].read) ∨
      (∃ i, i < s.cfg.fbLen ∧ a.toNat = 0x0100 + i ∧ x = s.fb.read i)) →
    (∀ b, x = some b → step s = .next { s with pending := rest, answers := s.answers ++ [{ addr := a, data := b }] }) ∧
    (x = none → step s = .next { s with pending := rest, unwrittenRead := true })

/-- R50: two reads of one address with nothing between them return the same byte. -/
def Obligations.HostReadsAreIdempotent : Prop :=
  ∀ (s t : State) (a : HostAddr) (b : Byte) (rest : List Transaction), s.pending = .read a :: .read a :: rest →
    step s = .next t → t.answers = s.answers ++ [{ addr := a, data := b }] →
    step t = .next
      { s with pending := rest, answers := s.answers ++ [{ addr := a, data := b }, { addr := a, data := b }] }

/-- R46: an access the map does not allow is refused: a read or write of a reserved address, a write to a read-only
address, and a read of CMD. -/
def Obligations.ForbiddenAccessesAreRefused : Prop :=
  ∀ (s : State) (a : HostAddr) (v : Byte) (rest : List Transaction),
    ((a.toNat = 0x0003 ∨ (0x001A ≤ a.toNat ∧ a.toNat ≤ 0x001F) ∨ (0x0028 ≤ a.toNat ∧ a.toNat ≤ 0x00FF) ∨
        0x0100 + s.cfg.fbLen ≤ a.toNat) →
      (s.pending = .write a v :: rest → step s = .refused (.reservedAddress a)) ∧
      (s.pending = .read a :: rest → step s = .refused (.reservedAddress a))) ∧
    ((a.toNat = 0x0001 ∨ a.toNat = 0x0002 ∨ a.toNat = 0x0018 ∨ a.toNat = 0x0019 ∨
        (0x0020 ≤ a.toNat ∧ a.toNat ≤ 0x0027)) →
      s.pending = .write a v :: rest → step s = .refused (.writeToReadOnly a)) ∧
    (a.toNat = 0x0000 → s.pending = .read a :: rest → step s = .refused (.readOfCommandPort a))

/-- R123, R59: every other transaction is allowed at all times: a step has no next state only when the host's next
transaction is a reserved access, a write to a read-only address or a read of CMD. -/
def Obligations.AllowedTransactionsAlwaysStep : Prop :=
  ∀ s : State, (∃ t, step s = .next t) ∨
    ∃ a : HostAddr, (∃ v, s.pending.head? = some (.write a v) ∧ a.toNat ≠ 0x0000 ∧
        ¬(0x0004 ≤ a.toNat ∧ a.toNat ≤ 0x0017) ∧ ¬(0x0100 ≤ a.toNat ∧ a.toNat < 0x0100 + s.cfg.fbLen)) ∨
      (s.pending.head? = some (.read a) ∧ ¬(0x0001 ≤ a.toNat ∧ a.toNat ≤ 0x0002) ∧
        ¬(0x0004 ≤ a.toNat ∧ a.toNat ≤ 0x0019) ∧ ¬(0x0020 ≤ a.toNat ∧ a.toNat ≤ 0x0027) ∧
        ¬(0x0100 ≤ a.toNat ∧ a.toNat < 0x0100 + s.cfg.fbLen))

/-- R71, R54: running the transactions of a load pseudo-instruction leaves the operand register holding exactly the bytes
given, in caller order, and nothing else changed; LD_FB leaves FB holding its bytes from offset i on. -/
def Obligations.LoadPseudoInstructionsLoad : Prop :=
  ∀ (s : State) (rest : List Transaction),
    (∀ v, s.pending = (Line.ldSrcShort v).expand ++ rest →
      Host.Core.run Sys2Proof.core 2 s = .next { s with pending := rest, srcShort := Reg.ofBytes v }) ∧
    (∀ v, s.pending = (Line.ldDstShort v).expand ++ rest →
      Host.Core.run Sys2Proof.core 2 s = .next { s with pending := rest, dstShort := Reg.ofBytes v }) ∧
    (∀ v, s.pending = (Line.ldSrcLong v).expand ++ rest →
      Host.Core.run Sys2Proof.core 8 s = .next { s with pending := rest, srcLong := Reg.ofBytes v }) ∧
    (∀ v, s.pending = (Line.ldDstLong v).expand ++ rest →
      Host.Core.run Sys2Proof.core 8 s = .next { s with pending := rest, dstLong := Reg.ofBytes v }) ∧
    (∀ i bs, s.cfg.WellFormed = true → i + bs.length ≤ s.cfg.fbLen → s.pending = (Line.ldFb i bs).expand ++ rest →
      ∃ m : Memory, Host.Core.run Sys2Proof.core bs.length s = .next { s with pending := rest, fb := m } ∧
        (∀ (k : Nat) (hk : k < bs.length), m.read (i + k) = some bs[k]) ∧
        ∀ j, j < i ∨ i + bs.length ≤ j → m.read j = s.fb.read j)
end

