-- ==== Sys2Proof/Laws/Memory.lean ====
section
/-! SUPPORT. The frame buffer: reading back what was written, what a write leaves alone (R11), and the canonical form. -/

namespace Sys2Proof.Machine

@[simp] theorem Memory.read_nil (i : Nat) : Memory.read [] i = none := rfl

@[simp] theorem Memory.read_cons (k : Nat) (b : BitVec 8) (m : Memory) (i : Nat) :
    Memory.read ((k, b) :: m) i = if k = i then some b else Memory.read m i := rfl

/-- One byte written: that offset reads it back, every other offset reads as before (R11, R54). -/
theorem Memory.read_write (m : Memory) (i j : Nat) (v : Byte) :
    (m.write i v).read j = if j = i then some v else m.read j := by
  induction m with
  | nil => simp [Memory.write, eq_comm]
  | cons c m ih =>
    obtain ⟨k, b⟩ := c
    simp only [Memory.write]
    split
    · simp only [Memory.read_cons, eq_comm]
    · split
      · subst i; simp only [Memory.read_cons, eq_comm]; split <;> simp_all
      · simp only [Memory.read_cons, ih]
        split <;> split <;> simp_all

theorem Memory.writeBytes_cons (m : Memory) (i : Nat) (b : Byte) (bs : List Byte) :
    m.writeBytes i (b :: bs) = (m.write i b).writeBytes (i + 1) bs := rfl

/-- `MemWrite`: the bytes of the list from offset `i` on, and no other byte (R11). -/
theorem Memory.read_writeBytes (bs : List Byte) (m : Memory) (i j : Nat) :
    (m.writeBytes i bs).read j = if i ≤ j ∧ j < i + bs.length then bs[j - i]? else m.read j := by
  induction bs generalizing m i with
  | nil =>
    rw [if_neg (by simp)]
    rfl
  | cons b bs ih =>
    rw [Memory.writeBytes_cons, ih, Memory.read_write]
    rcases Nat.lt_trichotomy j i with h | h | h
    · rw [if_neg (by omega), if_neg (by omega), if_neg (by omega)]
    · subst h; simp
    · obtain ⟨d, rfl⟩ : ∃ d, j = i + 1 + d := ⟨j - (i + 1), by omega⟩
      have hsub : i + 1 + d - i = d + 1 := by omega
      have hsub' : i + 1 + d - (i + 1) = d := by omega
      simp only [hsub, hsub', List.getElem?_cons_succ, List.length_cons]
      by_cases hd : d < bs.length
      · rw [if_pos (by omega), if_pos (by omega)]
      · rw [if_neg (by omega), if_neg (by omega), if_neg (by omega)]

/-- Offsets outside the bytes a `MemWrite` writes read as before (R11). -/
theorem Memory.read_writeBytes_outside (bs : List Byte) (m : Memory) (i j : Nat)
    (h : j < i ∨ i + bs.length ≤ j) : (m.writeBytes i bs).read j = m.read j := by
  rw [Memory.read_writeBytes, if_neg (by omega)]

/-- Offset `i + k` of a `MemWrite` reads byte `k` back (R11). -/
theorem Memory.read_writeBytes_inside (bs : List Byte) (m : Memory) (i k : Nat) (h : k < bs.length) :
    (m.writeBytes i bs).read (i + k) = some bs[k] := by
  rw [Memory.read_writeBytes, if_pos (by omega), Nat.add_sub_cancel_left, List.getElem?_eq_getElem h]

/-- The zero-fill: zero below `n`, unchanged from `n` on (R81). -/
theorem Memory.read_zeroFill (m : Memory) (n j : Nat) :
    (m.zeroFill n).read j = if j < n then some 0x00 else m.read j := by
  simp only [Memory.zeroFill, Memory.read_writeBytes, List.length_replicate, Nat.zero_le, true_and, Nat.zero_add,
    Nat.sub_zero]
  split
  · simp [*]
  · rfl

/-- `MemRead` answers a byte list exactly when every byte is written, and then those bytes (R11, R36). -/
theorem Memory.readBytes_eq_some {m : Memory} {i n : Nat} {v : Bytes n} :
    m.readBytes i n = some v ↔ ∀ k : Fin n, m.read (i + k.val) = some v[k] := by
  unfold Memory.readBytes
  constructor
  · intro h k
    split at h
    · cases h; simp
    · cases h
  · intro h
    rw [dif_pos fun k => by rw [h k]; rfl]
    refine congrArg some (Vector.ext fun k hk => ?_)
    simp [h ⟨k, hk⟩]

/-- `MemRead` meets an unwritten byte exactly when one of its offsets holds none (R118). -/
theorem Memory.readBytes_eq_none {m : Memory} {i n : Nat} :
    m.readBytes i n = none ↔ ∃ k : Fin n, m.read (i + k.val) = none := by
  unfold Memory.readBytes
  split
  next h => simp only [reduceCtorEq, false_iff, not_exists]; intro k hk; simpa [hk] using h k
  next h => simpa using h

/-- `MemRead` answers exactly when every offset it reads is written. -/
theorem Memory.readBytes_isSome {m : Memory} {i n : Nat} :
    (m.readBytes i n).isSome = true ↔ ∀ a, i ≤ a → a < i + n → m.read a ≠ none := by
  rw [Option.isSome_iff_ne_none, ne_eq, Memory.readBytes_eq_none, not_exists]
  constructor
  · intro h a hia han
    have hk := h ⟨a - i, by omega⟩
    rwa [show i + (a - i) = a by omega] at hk
  · exact fun h k => h _ (by omega) (by omega)

/-- A `MemRead` cut in two answers exactly when both parts do. -/
theorem Memory.readBytes_isSome_split (m : Memory) (i a b : Nat) :
    (m.readBytes i (a + b)).isSome = ((m.readBytes i a).isSome && (m.readBytes (i + a) b).isSome) := by
  rw [Bool.eq_iff_iff, Bool.and_eq_true, Memory.readBytes_isSome, Memory.readBytes_isSome, Memory.readBytes_isSome]
  constructor
  · exact fun h => ⟨fun k h1 h2 => h k h1 (by omega), fun k h1 h2 => h k (by omega) (by omega)⟩
  · rintro ⟨h1, h2⟩ k hk hk'
    by_cases hka : k < i + a
    · exact h1 k hk hka
    · exact h2 k (by omega) (by omega)

/-- Two memories that agree on the offsets read give the same `MemRead`. -/
theorem Memory.readBytes_congr {m m' : Memory} {i n : Nat} (h : ∀ k, i ≤ k → k < i + n → m.read k = m'.read k) :
    m.readBytes i n = m'.readBytes i n := by
  rcases hm : m'.readBytes i n with _ | v
  · obtain ⟨k, hk⟩ := Memory.readBytes_eq_none.1 hm
    exact Memory.readBytes_eq_none.2 ⟨k, by rw [h _ (by omega) (by omega), hk]⟩
  · exact Memory.readBytes_eq_some.2 fun k => by
      rw [h _ (by omega) (by omega), Memory.readBytes_eq_some.1 hm k]

/-- Every offset of the list lies above `k`. -/
def Memory.above (k : Nat) (m : Memory) : Bool := m.all fun c => decide (k < c.1)

theorem Memory.wf_cons (k : Nat) (b : BitVec 8) (m : Memory) :
    Memory.wf ((k, b) :: m) = (Memory.above k m && Memory.wf m) := rfl

theorem Memory.above_write {k i : Nat} {m : Memory} {v : Byte} (h : Memory.above k m = true) (hi : k < i) :
    Memory.above k (m.write i v) = true := by
  induction m with
  | nil => simpa [Memory.write, Memory.above] using hi
  | cons c m ih =>
    obtain ⟨j, b⟩ := c
    simp only [Memory.above, List.all_cons, Bool.and_eq_true, decide_eq_true_eq] at h ih ⊢
    simp only [Memory.write]
    split
    · simpa [hi] using h
    · split
      · simpa [hi] using h.2
      · simpa [h.1] using ih h.2

theorem Memory.above_trans {k j : Nat} {m : Memory} (h : Memory.above j m = true) (hk : k < j) :
    Memory.above k m = true := by
  simp only [Memory.above, List.all_eq_true, decide_eq_true_eq] at h ⊢
  exact fun c hc => Nat.lt_trans hk (h c hc)

/-- A write keeps the canonical form. -/
theorem Memory.wf_write {m : Memory} (h : m.wf = true) (i : Nat) (v : Byte) : (m.write i v).wf = true := by
  induction m with
  | nil => rfl
  | cons c m ih =>
    obtain ⟨k, b⟩ := c
    simp only [Memory.wf_cons, Bool.and_eq_true] at h
    simp only [Memory.write]
    split
    next hlt =>
      have hk : Memory.above i ((k, b) :: m) = true := by
        have habove := Memory.above_trans h.1 hlt
        simp only [Memory.above, List.all_cons, Bool.and_eq_true, decide_eq_true_eq] at habove ⊢
        exact ⟨hlt, habove⟩
      simp [Memory.wf_cons, h.1, h.2, hk]
    next =>
      split
      next heq => subst heq; simp [Memory.wf_cons, h.1, h.2]
      next => simp [Memory.wf_cons, ih h.2, Memory.above_write h.1 (by omega : k < i)]

/-- `MemWrite` keeps the canonical form. -/
theorem Memory.wf_writeBytes {m : Memory} (h : m.wf = true) (i : Nat) (bs : List Byte) :
    (m.writeBytes i bs).wf = true := by
  induction bs generalizing m i with
  | nil => exact h
  | cons b bs ih => exact ih (Memory.wf_write h i b) (i + 1)

/-- The zero-fill keeps the canonical form. -/
theorem Memory.wf_zeroFill {m : Memory} (h : m.wf = true) (n : Nat) : (m.zeroFill n).wf = true :=
  Memory.wf_writeBytes h 0 _

/-- A memory that lists no offset from `n` on. -/
def Memory.below (n : Nat) (m : Memory) : Bool := m.all fun c => decide (c.1 < n)

theorem Memory.below_write {n i : Nat} {m : Memory} {v : Byte} (h : m.below n = true) (hi : i < n) :
    (m.write i v).below n = true := by
  induction m with
  | nil => simpa [Memory.write, Memory.below] using hi
  | cons c m ih =>
    obtain ⟨k, b⟩ := c
    simp only [Memory.below, List.all_cons, Bool.and_eq_true, decide_eq_true_eq] at h ih ⊢
    simp only [Memory.write]
    split
    · simpa [hi] using h
    · split
      · simpa [hi] using h.2
      · simpa [h.1] using ih h.2

/-- `MemWrite` within `n` bytes lists no offset from `n` on. -/
theorem Memory.below_writeBytes {n : Nat} {m : Memory} (h : m.below n = true) (i : Nat) (bs : List Byte)
    (hi : i + bs.length ≤ n) : (m.writeBytes i bs).below n = true := by
  induction bs generalizing m i with
  | nil => exact h
  | cons b bs ih =>
    simp only [List.length_cons] at hi
    exact ih (Memory.below_write h (by omega)) (i + 1) (by omega)

theorem Memory.below_zeroFill {n k : Nat} {m : Memory} (h : m.below n = true) (hk : k ≤ n) :
    (m.zeroFill k).below n = true :=
  Memory.below_writeBytes h 0 _ (by simpa using hk)

/-- A memory within `n` bytes holds nothing from `n` on. -/
theorem Memory.read_none_of_below {n i : Nat} {m : Memory} (h : m.below n = true) (hi : n ≤ i) : m.read i = none := by
  induction m with
  | nil => rfl
  | cons c m ih =>
    obtain ⟨k, b⟩ := c
    simp only [Memory.below, List.all_cons, Bool.and_eq_true, decide_eq_true_eq] at h ih
    rw [Memory.read_cons, if_neg (by omega), ih h.2]

end Sys2Proof.Machine
end

