-- ==== Sys2Proof/Laws/Operands.lean ====
section
/-! SUPPORT. The reversal engine (R100, R101), the increment (R103), and registers with their unwritten marks (R36). -/

namespace Sys2Proof.Machine

@[simp] theorem rev_getElem {n : Nat} (v : Bytes n) (k : Nat) (h : k < n) : (rev v)[k] = v[n - 1 - k] := by
  simp [rev]

/-- REV_n undoes itself (R101). -/
@[simp] theorem rev_rev {n : Nat} (v : Bytes n) : rev (rev v) = v := by
  refine Vector.ext fun k hk => ?_
  simp only [rev_getElem]
  congr 1
  omega

@[simp] theorem rev_toList_length {n : Nat} (v : Bytes n) : (rev v).toList.length = n := by simp

/-- INC is addition modulo 256 (R103). -/
theorem inc_eq_add_one (s : Byte) : inc s = s + 1 := by
  unfold inc
  split
  next h => subst h; rfl
  next => rfl

@[simp] theorem RegByte.read_written (v : Byte) : (RegByte.written v).read = some v := rfl

@[simp] theorem RegByte.written_unwritten (v : Byte) : (RegByte.written v).unwritten = false := rfl

/-- A byte is known exactly when it is a written byte. -/
theorem RegByte.read_eq_some {b : RegByte} {v : Byte} : b.read = some v ↔ b = RegByte.written v := by
  obtain ⟨w, u⟩ := b
  cases u <;> simp [RegByte.read, RegByte.written]

theorem RegByte.read_eq_none {b : RegByte} : b.read = none ↔ b.unwritten = true := by
  simp [RegByte.read]

@[simp] theorem Reg.ofBytes_getElem {n : Nat} (v : Bytes n) (k : Nat) (h : k < n) :
    (Reg.ofBytes v)[k] = RegByte.written v[k] := by
  simp [Reg.ofBytes]

/-- A register has a whole value exactly when that value was written to it (R36). -/
theorem Reg.bytes_eq_some {n : Nat} {r : Reg n} {v : Bytes n} : r.bytes = some v ↔ r = Reg.ofBytes v := by
  unfold Reg.bytes
  constructor
  · intro h
    split at h
    next hw =>
      cases h
      refine Vector.ext fun k hk => ?_
      have hk' := hw ⟨k, hk⟩
      simp only [Fin.getElem_fin] at hk'
      simp [RegByte.written, ← hk']
    next => cases h
  · rintro rfl
    rw [if_pos fun k => by simp]
    refine congrArg some (Vector.ext fun k hk => ?_)
    simp [RegByte.written]

@[simp] theorem Reg.bytes_ofBytes {n : Nat} (v : Bytes n) : (Reg.ofBytes v).bytes = some v :=
  Reg.bytes_eq_some.2 rfl

/-- A register has no whole value exactly when one of its bytes is unwritten (R36). -/
theorem Reg.bytes_eq_none {n : Nat} {r : Reg n} : r.bytes = none ↔ ∃ k : Fin n, r[k].unwritten = true := by
  simp [Reg.bytes]

/-- One byte of a register written: that byte, and no other (R44). -/
theorem Reg.setByte_getElem {n : Nat} (r : Reg n) (k : Fin n) (v : Byte) (j : Nat) (h : j < n) :
    (r.setByte k v)[j] = if k.val = j then RegByte.written v else r[j] := by
  simp [Reg.setByte, Vector.getElem_set]

end Sys2Proof.Machine
end

