-- ==== Sys2Proof/Laws/State.lean ====
section
/-! SUPPORT. What each named update of the state does to each field: one lemma per field per update. -/

namespace Sys2Proof.Machine

@[simp] theorem State.setSeq_cfg (s : State) (v : Byte) : (s.setSeq v).cfg = s.cfg := rfl
@[simp] theorem State.setSeq_seq (s : State) (v : Byte) : (s.setSeq v).seq = v := rfl
@[simp] theorem State.setSeq_srcShort (s : State) (v : Byte) : (s.setSeq v).srcShort = s.srcShort := rfl
@[simp] theorem State.setSeq_dstShort (s : State) (v : Byte) : (s.setSeq v).dstShort = s.dstShort := rfl
@[simp] theorem State.setSeq_srcLong (s : State) (v : Byte) : (s.setSeq v).srcLong = s.srcLong := rfl
@[simp] theorem State.setSeq_dstLong (s : State) (v : Byte) : (s.setSeq v).dstLong = s.dstLong := rfl
@[simp] theorem State.setSeq_fb (s : State) (v : Byte) : (s.setSeq v).fb = s.fb := rfl
@[simp] theorem State.setSeq_outShort (s : State) (v : Byte) : (s.setSeq v).outShort = s.outShort := rfl
@[simp] theorem State.setSeq_outLong (s : State) (v : Byte) : (s.setSeq v).outLong = s.outLong := rfl
@[simp] theorem State.setSeq_errCause (s : State) (v : Byte) : (s.setSeq v).errCause = s.errCause := rfl
@[simp] theorem State.setSeq_errCmd (s : State) (v : Byte) : (s.setSeq v).errCmd = s.errCmd := rfl
@[simp] theorem State.setSeq_unwrittenRead (s : State) (v : Byte) : (s.setSeq v).unwrittenRead = s.unwrittenRead := rfl
@[simp] theorem State.setSeq_pending (s : State) (v : Byte) : (s.setSeq v).pending = s.pending := rfl
@[simp] theorem State.setSeq_answers (s : State) (v : Byte) : (s.setSeq v).answers = s.answers := rfl

@[simp] theorem State.setSrcShort_cfg (s : State) (r : Reg 2) : (s.setSrcShort r).cfg = s.cfg := rfl
@[simp] theorem State.setSrcShort_seq (s : State) (r : Reg 2) : (s.setSrcShort r).seq = s.seq := rfl
@[simp] theorem State.setSrcShort_srcShort (s : State) (r : Reg 2) : (s.setSrcShort r).srcShort = r := rfl
@[simp] theorem State.setSrcShort_dstShort (s : State) (r : Reg 2) : (s.setSrcShort r).dstShort = s.dstShort := rfl
@[simp] theorem State.setSrcShort_srcLong (s : State) (r : Reg 2) : (s.setSrcShort r).srcLong = s.srcLong := rfl
@[simp] theorem State.setSrcShort_dstLong (s : State) (r : Reg 2) : (s.setSrcShort r).dstLong = s.dstLong := rfl
@[simp] theorem State.setSrcShort_fb (s : State) (r : Reg 2) : (s.setSrcShort r).fb = s.fb := rfl
@[simp] theorem State.setSrcShort_outShort (s : State) (r : Reg 2) : (s.setSrcShort r).outShort = s.outShort := rfl
@[simp] theorem State.setSrcShort_outLong (s : State) (r : Reg 2) : (s.setSrcShort r).outLong = s.outLong := rfl
@[simp] theorem State.setSrcShort_errCause (s : State) (r : Reg 2) : (s.setSrcShort r).errCause = s.errCause := rfl
@[simp] theorem State.setSrcShort_errCmd (s : State) (r : Reg 2) : (s.setSrcShort r).errCmd = s.errCmd := rfl
@[simp] theorem State.setSrcShort_unwrittenRead (s : State) (r : Reg 2) : (s.setSrcShort r).unwrittenRead = s.unwrittenRead := rfl
@[simp] theorem State.setSrcShort_pending (s : State) (r : Reg 2) : (s.setSrcShort r).pending = s.pending := rfl
@[simp] theorem State.setSrcShort_answers (s : State) (r : Reg 2) : (s.setSrcShort r).answers = s.answers := rfl

@[simp] theorem State.setDstShort_cfg (s : State) (r : Reg 2) : (s.setDstShort r).cfg = s.cfg := rfl
@[simp] theorem State.setDstShort_seq (s : State) (r : Reg 2) : (s.setDstShort r).seq = s.seq := rfl
@[simp] theorem State.setDstShort_srcShort (s : State) (r : Reg 2) : (s.setDstShort r).srcShort = s.srcShort := rfl
@[simp] theorem State.setDstShort_dstShort (s : State) (r : Reg 2) : (s.setDstShort r).dstShort = r := rfl
@[simp] theorem State.setDstShort_srcLong (s : State) (r : Reg 2) : (s.setDstShort r).srcLong = s.srcLong := rfl
@[simp] theorem State.setDstShort_dstLong (s : State) (r : Reg 2) : (s.setDstShort r).dstLong = s.dstLong := rfl
@[simp] theorem State.setDstShort_fb (s : State) (r : Reg 2) : (s.setDstShort r).fb = s.fb := rfl
@[simp] theorem State.setDstShort_outShort (s : State) (r : Reg 2) : (s.setDstShort r).outShort = s.outShort := rfl
@[simp] theorem State.setDstShort_outLong (s : State) (r : Reg 2) : (s.setDstShort r).outLong = s.outLong := rfl
@[simp] theorem State.setDstShort_errCause (s : State) (r : Reg 2) : (s.setDstShort r).errCause = s.errCause := rfl
@[simp] theorem State.setDstShort_errCmd (s : State) (r : Reg 2) : (s.setDstShort r).errCmd = s.errCmd := rfl
@[simp] theorem State.setDstShort_unwrittenRead (s : State) (r : Reg 2) : (s.setDstShort r).unwrittenRead = s.unwrittenRead := rfl
@[simp] theorem State.setDstShort_pending (s : State) (r : Reg 2) : (s.setDstShort r).pending = s.pending := rfl
@[simp] theorem State.setDstShort_answers (s : State) (r : Reg 2) : (s.setDstShort r).answers = s.answers := rfl

@[simp] theorem State.setSrcLong_cfg (s : State) (r : Reg 8) : (s.setSrcLong r).cfg = s.cfg := rfl
@[simp] theorem State.setSrcLong_seq (s : State) (r : Reg 8) : (s.setSrcLong r).seq = s.seq := rfl
@[simp] theorem State.setSrcLong_srcShort (s : State) (r : Reg 8) : (s.setSrcLong r).srcShort = s.srcShort := rfl
@[simp] theorem State.setSrcLong_dstShort (s : State) (r : Reg 8) : (s.setSrcLong r).dstShort = s.dstShort := rfl
@[simp] theorem State.setSrcLong_srcLong (s : State) (r : Reg 8) : (s.setSrcLong r).srcLong = r := rfl
@[simp] theorem State.setSrcLong_dstLong (s : State) (r : Reg 8) : (s.setSrcLong r).dstLong = s.dstLong := rfl
@[simp] theorem State.setSrcLong_fb (s : State) (r : Reg 8) : (s.setSrcLong r).fb = s.fb := rfl
@[simp] theorem State.setSrcLong_outShort (s : State) (r : Reg 8) : (s.setSrcLong r).outShort = s.outShort := rfl
@[simp] theorem State.setSrcLong_outLong (s : State) (r : Reg 8) : (s.setSrcLong r).outLong = s.outLong := rfl
@[simp] theorem State.setSrcLong_errCause (s : State) (r : Reg 8) : (s.setSrcLong r).errCause = s.errCause := rfl
@[simp] theorem State.setSrcLong_errCmd (s : State) (r : Reg 8) : (s.setSrcLong r).errCmd = s.errCmd := rfl
@[simp] theorem State.setSrcLong_unwrittenRead (s : State) (r : Reg 8) : (s.setSrcLong r).unwrittenRead = s.unwrittenRead := rfl
@[simp] theorem State.setSrcLong_pending (s : State) (r : Reg 8) : (s.setSrcLong r).pending = s.pending := rfl
@[simp] theorem State.setSrcLong_answers (s : State) (r : Reg 8) : (s.setSrcLong r).answers = s.answers := rfl

@[simp] theorem State.setDstLong_cfg (s : State) (r : Reg 8) : (s.setDstLong r).cfg = s.cfg := rfl
@[simp] theorem State.setDstLong_seq (s : State) (r : Reg 8) : (s.setDstLong r).seq = s.seq := rfl
@[simp] theorem State.setDstLong_srcShort (s : State) (r : Reg 8) : (s.setDstLong r).srcShort = s.srcShort := rfl
@[simp] theorem State.setDstLong_dstShort (s : State) (r : Reg 8) : (s.setDstLong r).dstShort = s.dstShort := rfl
@[simp] theorem State.setDstLong_srcLong (s : State) (r : Reg 8) : (s.setDstLong r).srcLong = s.srcLong := rfl
@[simp] theorem State.setDstLong_dstLong (s : State) (r : Reg 8) : (s.setDstLong r).dstLong = r := rfl
@[simp] theorem State.setDstLong_fb (s : State) (r : Reg 8) : (s.setDstLong r).fb = s.fb := rfl
@[simp] theorem State.setDstLong_outShort (s : State) (r : Reg 8) : (s.setDstLong r).outShort = s.outShort := rfl
@[simp] theorem State.setDstLong_outLong (s : State) (r : Reg 8) : (s.setDstLong r).outLong = s.outLong := rfl
@[simp] theorem State.setDstLong_errCause (s : State) (r : Reg 8) : (s.setDstLong r).errCause = s.errCause := rfl
@[simp] theorem State.setDstLong_errCmd (s : State) (r : Reg 8) : (s.setDstLong r).errCmd = s.errCmd := rfl
@[simp] theorem State.setDstLong_unwrittenRead (s : State) (r : Reg 8) : (s.setDstLong r).unwrittenRead = s.unwrittenRead := rfl
@[simp] theorem State.setDstLong_pending (s : State) (r : Reg 8) : (s.setDstLong r).pending = s.pending := rfl
@[simp] theorem State.setDstLong_answers (s : State) (r : Reg 8) : (s.setDstLong r).answers = s.answers := rfl

@[simp] theorem State.setFb_cfg (s : State) (m : Memory) : (s.setFb m).cfg = s.cfg := rfl
@[simp] theorem State.setFb_seq (s : State) (m : Memory) : (s.setFb m).seq = s.seq := rfl
@[simp] theorem State.setFb_srcShort (s : State) (m : Memory) : (s.setFb m).srcShort = s.srcShort := rfl
@[simp] theorem State.setFb_dstShort (s : State) (m : Memory) : (s.setFb m).dstShort = s.dstShort := rfl
@[simp] theorem State.setFb_srcLong (s : State) (m : Memory) : (s.setFb m).srcLong = s.srcLong := rfl
@[simp] theorem State.setFb_dstLong (s : State) (m : Memory) : (s.setFb m).dstLong = s.dstLong := rfl
@[simp] theorem State.setFb_fb (s : State) (m : Memory) : (s.setFb m).fb = m := rfl
@[simp] theorem State.setFb_outShort (s : State) (m : Memory) : (s.setFb m).outShort = s.outShort := rfl
@[simp] theorem State.setFb_outLong (s : State) (m : Memory) : (s.setFb m).outLong = s.outLong := rfl
@[simp] theorem State.setFb_errCause (s : State) (m : Memory) : (s.setFb m).errCause = s.errCause := rfl
@[simp] theorem State.setFb_errCmd (s : State) (m : Memory) : (s.setFb m).errCmd = s.errCmd := rfl
@[simp] theorem State.setFb_unwrittenRead (s : State) (m : Memory) : (s.setFb m).unwrittenRead = s.unwrittenRead := rfl
@[simp] theorem State.setFb_pending (s : State) (m : Memory) : (s.setFb m).pending = s.pending := rfl
@[simp] theorem State.setFb_answers (s : State) (m : Memory) : (s.setFb m).answers = s.answers := rfl

@[simp] theorem State.setOutShort_cfg (s : State) (r : Reg 2) : (s.setOutShort r).cfg = s.cfg := rfl
@[simp] theorem State.setOutShort_seq (s : State) (r : Reg 2) : (s.setOutShort r).seq = s.seq := rfl
@[simp] theorem State.setOutShort_srcShort (s : State) (r : Reg 2) : (s.setOutShort r).srcShort = s.srcShort := rfl
@[simp] theorem State.setOutShort_dstShort (s : State) (r : Reg 2) : (s.setOutShort r).dstShort = s.dstShort := rfl
@[simp] theorem State.setOutShort_srcLong (s : State) (r : Reg 2) : (s.setOutShort r).srcLong = s.srcLong := rfl
@[simp] theorem State.setOutShort_dstLong (s : State) (r : Reg 2) : (s.setOutShort r).dstLong = s.dstLong := rfl
@[simp] theorem State.setOutShort_fb (s : State) (r : Reg 2) : (s.setOutShort r).fb = s.fb := rfl
@[simp] theorem State.setOutShort_outShort (s : State) (r : Reg 2) : (s.setOutShort r).outShort = r := rfl
@[simp] theorem State.setOutShort_outLong (s : State) (r : Reg 2) : (s.setOutShort r).outLong = s.outLong := rfl
@[simp] theorem State.setOutShort_errCause (s : State) (r : Reg 2) : (s.setOutShort r).errCause = s.errCause := rfl
@[simp] theorem State.setOutShort_errCmd (s : State) (r : Reg 2) : (s.setOutShort r).errCmd = s.errCmd := rfl
@[simp] theorem State.setOutShort_unwrittenRead (s : State) (r : Reg 2) : (s.setOutShort r).unwrittenRead = s.unwrittenRead := rfl
@[simp] theorem State.setOutShort_pending (s : State) (r : Reg 2) : (s.setOutShort r).pending = s.pending := rfl
@[simp] theorem State.setOutShort_answers (s : State) (r : Reg 2) : (s.setOutShort r).answers = s.answers := rfl

@[simp] theorem State.setOutLong_cfg (s : State) (r : Reg 8) : (s.setOutLong r).cfg = s.cfg := rfl
@[simp] theorem State.setOutLong_seq (s : State) (r : Reg 8) : (s.setOutLong r).seq = s.seq := rfl
@[simp] theorem State.setOutLong_srcShort (s : State) (r : Reg 8) : (s.setOutLong r).srcShort = s.srcShort := rfl
@[simp] theorem State.setOutLong_dstShort (s : State) (r : Reg 8) : (s.setOutLong r).dstShort = s.dstShort := rfl
@[simp] theorem State.setOutLong_srcLong (s : State) (r : Reg 8) : (s.setOutLong r).srcLong = s.srcLong := rfl
@[simp] theorem State.setOutLong_dstLong (s : State) (r : Reg 8) : (s.setOutLong r).dstLong = s.dstLong := rfl
@[simp] theorem State.setOutLong_fb (s : State) (r : Reg 8) : (s.setOutLong r).fb = s.fb := rfl
@[simp] theorem State.setOutLong_outShort (s : State) (r : Reg 8) : (s.setOutLong r).outShort = s.outShort := rfl
@[simp] theorem State.setOutLong_outLong (s : State) (r : Reg 8) : (s.setOutLong r).outLong = r := rfl
@[simp] theorem State.setOutLong_errCause (s : State) (r : Reg 8) : (s.setOutLong r).errCause = s.errCause := rfl
@[simp] theorem State.setOutLong_errCmd (s : State) (r : Reg 8) : (s.setOutLong r).errCmd = s.errCmd := rfl
@[simp] theorem State.setOutLong_unwrittenRead (s : State) (r : Reg 8) : (s.setOutLong r).unwrittenRead = s.unwrittenRead := rfl
@[simp] theorem State.setOutLong_pending (s : State) (r : Reg 8) : (s.setOutLong r).pending = s.pending := rfl
@[simp] theorem State.setOutLong_answers (s : State) (r : Reg 8) : (s.setOutLong r).answers = s.answers := rfl

@[simp] theorem State.setError_cfg (s : State) (k c : Byte) : (s.setError k c).cfg = s.cfg := rfl
@[simp] theorem State.setError_seq (s : State) (k c : Byte) : (s.setError k c).seq = s.seq := rfl
@[simp] theorem State.setError_srcShort (s : State) (k c : Byte) : (s.setError k c).srcShort = s.srcShort := rfl
@[simp] theorem State.setError_dstShort (s : State) (k c : Byte) : (s.setError k c).dstShort = s.dstShort := rfl
@[simp] theorem State.setError_srcLong (s : State) (k c : Byte) : (s.setError k c).srcLong = s.srcLong := rfl
@[simp] theorem State.setError_dstLong (s : State) (k c : Byte) : (s.setError k c).dstLong = s.dstLong := rfl
@[simp] theorem State.setError_fb (s : State) (k c : Byte) : (s.setError k c).fb = s.fb := rfl
@[simp] theorem State.setError_outShort (s : State) (k c : Byte) : (s.setError k c).outShort = s.outShort := rfl
@[simp] theorem State.setError_outLong (s : State) (k c : Byte) : (s.setError k c).outLong = s.outLong := rfl
@[simp] theorem State.setError_errCause (s : State) (k c : Byte) : (s.setError k c).errCause = k := rfl
@[simp] theorem State.setError_errCmd (s : State) (k c : Byte) : (s.setError k c).errCmd = c := rfl
@[simp] theorem State.setError_unwrittenRead (s : State) (k c : Byte) : (s.setError k c).unwrittenRead = s.unwrittenRead := rfl
@[simp] theorem State.setError_pending (s : State) (k c : Byte) : (s.setError k c).pending = s.pending := rfl
@[simp] theorem State.setError_answers (s : State) (k c : Byte) : (s.setError k c).answers = s.answers := rfl

@[simp] theorem State.markUnwrittenRead_cfg (s : State) : (s.markUnwrittenRead).cfg = s.cfg := rfl
@[simp] theorem State.markUnwrittenRead_seq (s : State) : (s.markUnwrittenRead).seq = s.seq := rfl
@[simp] theorem State.markUnwrittenRead_srcShort (s : State) : (s.markUnwrittenRead).srcShort = s.srcShort := rfl
@[simp] theorem State.markUnwrittenRead_dstShort (s : State) : (s.markUnwrittenRead).dstShort = s.dstShort := rfl
@[simp] theorem State.markUnwrittenRead_srcLong (s : State) : (s.markUnwrittenRead).srcLong = s.srcLong := rfl
@[simp] theorem State.markUnwrittenRead_dstLong (s : State) : (s.markUnwrittenRead).dstLong = s.dstLong := rfl
@[simp] theorem State.markUnwrittenRead_fb (s : State) : (s.markUnwrittenRead).fb = s.fb := rfl
@[simp] theorem State.markUnwrittenRead_outShort (s : State) : (s.markUnwrittenRead).outShort = s.outShort := rfl
@[simp] theorem State.markUnwrittenRead_outLong (s : State) : (s.markUnwrittenRead).outLong = s.outLong := rfl
@[simp] theorem State.markUnwrittenRead_errCause (s : State) : (s.markUnwrittenRead).errCause = s.errCause := rfl
@[simp] theorem State.markUnwrittenRead_errCmd (s : State) : (s.markUnwrittenRead).errCmd = s.errCmd := rfl
@[simp] theorem State.markUnwrittenRead_unwrittenRead (s : State) : (s.markUnwrittenRead).unwrittenRead = true := rfl
@[simp] theorem State.markUnwrittenRead_pending (s : State) : (s.markUnwrittenRead).pending = s.pending := rfl
@[simp] theorem State.markUnwrittenRead_answers (s : State) : (s.markUnwrittenRead).answers = s.answers := rfl

@[simp] theorem State.setPending_cfg (s : State) (ts : List Transaction) : (s.setPending ts).cfg = s.cfg := rfl
@[simp] theorem State.setPending_seq (s : State) (ts : List Transaction) : (s.setPending ts).seq = s.seq := rfl
@[simp] theorem State.setPending_srcShort (s : State) (ts : List Transaction) : (s.setPending ts).srcShort = s.srcShort := rfl
@[simp] theorem State.setPending_dstShort (s : State) (ts : List Transaction) : (s.setPending ts).dstShort = s.dstShort := rfl
@[simp] theorem State.setPending_srcLong (s : State) (ts : List Transaction) : (s.setPending ts).srcLong = s.srcLong := rfl
@[simp] theorem State.setPending_dstLong (s : State) (ts : List Transaction) : (s.setPending ts).dstLong = s.dstLong := rfl
@[simp] theorem State.setPending_fb (s : State) (ts : List Transaction) : (s.setPending ts).fb = s.fb := rfl
@[simp] theorem State.setPending_outShort (s : State) (ts : List Transaction) : (s.setPending ts).outShort = s.outShort := rfl
@[simp] theorem State.setPending_outLong (s : State) (ts : List Transaction) : (s.setPending ts).outLong = s.outLong := rfl
@[simp] theorem State.setPending_errCause (s : State) (ts : List Transaction) : (s.setPending ts).errCause = s.errCause := rfl
@[simp] theorem State.setPending_errCmd (s : State) (ts : List Transaction) : (s.setPending ts).errCmd = s.errCmd := rfl
@[simp] theorem State.setPending_unwrittenRead (s : State) (ts : List Transaction) : (s.setPending ts).unwrittenRead = s.unwrittenRead := rfl
@[simp] theorem State.setPending_pending (s : State) (ts : List Transaction) : (s.setPending ts).pending = ts := rfl
@[simp] theorem State.setPending_answers (s : State) (ts : List Transaction) : (s.setPending ts).answers = s.answers := rfl

@[simp] theorem State.answer_cfg (s : State) (r : Answer) : (s.answer r).cfg = s.cfg := rfl
@[simp] theorem State.answer_seq (s : State) (r : Answer) : (s.answer r).seq = s.seq := rfl
@[simp] theorem State.answer_srcShort (s : State) (r : Answer) : (s.answer r).srcShort = s.srcShort := rfl
@[simp] theorem State.answer_dstShort (s : State) (r : Answer) : (s.answer r).dstShort = s.dstShort := rfl
@[simp] theorem State.answer_srcLong (s : State) (r : Answer) : (s.answer r).srcLong = s.srcLong := rfl
@[simp] theorem State.answer_dstLong (s : State) (r : Answer) : (s.answer r).dstLong = s.dstLong := rfl
@[simp] theorem State.answer_fb (s : State) (r : Answer) : (s.answer r).fb = s.fb := rfl
@[simp] theorem State.answer_outShort (s : State) (r : Answer) : (s.answer r).outShort = s.outShort := rfl
@[simp] theorem State.answer_outLong (s : State) (r : Answer) : (s.answer r).outLong = s.outLong := rfl
@[simp] theorem State.answer_errCause (s : State) (r : Answer) : (s.answer r).errCause = s.errCause := rfl
@[simp] theorem State.answer_errCmd (s : State) (r : Answer) : (s.answer r).errCmd = s.errCmd := rfl
@[simp] theorem State.answer_unwrittenRead (s : State) (r : Answer) : (s.answer r).unwrittenRead = s.unwrittenRead := rfl
@[simp] theorem State.answer_pending (s : State) (r : Answer) : (s.answer r).pending = s.pending := rfl
@[simp] theorem State.answer_answers (s : State) (r : Answer) : (s.answer r).answers = s.answers ++ [r] := rfl

end Sys2Proof.Machine
end

