-- ==== Sys2Proof/Laws/Commands.lean ====
section
/-! SUPPORT. What a command can do: the decoder and the encoder agree byte by byte, and one inversion lemma for `exec`. -/

namespace Sys2Proof.Machine

/-! ### Bytes and commands -/

@[simp] theorem decodeByte_encodeByte (i : Instr) : decodeByte (encodeByte i) = .ok i := by
  cases i <;> rfl

/-- A byte that decodes to a command is that command's byte, tried on every byte. -/
def decodedByteMatches (c : Byte) : Bool :=
  match decodeByte c with
  | .ok i => encodeByte i == c
  | .error _ => true

set_option maxRecDepth 4000 in
theorem decodedByteMatches_all : ∀ n : Fin 256, decodedByteMatches (BitVec.ofFin n) = true := by
  decide

/-- A byte decodes to a command only if it is that command's byte (R62). -/
theorem encodeByte_of_decodeByte {c : Byte} {i : Instr} (h : decodeByte c = .ok i) : encodeByte i = c := by
  have hc := decodedByteMatches_all c.toFin
  simpa [decodedByteMatches, h] using hc

/-! ### The state updates that commands share -/

theorem raiseFault_eq (k : FaultCause) (c : Byte) (s : State) :
    raiseFault k c s = { s with errCause := k.code, errCmd := c } := rfl

theorem recordUnwrittenRead_eq (s : State) : recordUnwrittenRead s = { s with unwrittenRead := true } := rfl

theorem completeGenerate_eq (s : State) (m : Memory) :
    completeGenerate s m = { s with fb := m, seq := s.seq + 1 } := by
  simp [completeGenerate, State.setFb, State.setSeq, inc_eq_add_one]

theorem State.halted_eq_false {s : State} : s.halted = false ↔ s.errCause = 0x00 := by
  simp [State.halted]

theorem State.halted_eq_true {s : State} : s.halted = true ↔ s.errCause ≠ 0x00 := by
  simp [State.halted]

/-! ### What a frame's memory holds -/

/-- What a generate command leaves in FB besides the frame's own fields: the sequence number in its place, the bytes
outside the frame and the zero-fill unchanged, the canonical form and the range kept. -/
structure FrameWritten (i : Instr) (s : State) (m : Memory) : Prop where
  sequence : m.read (sequenceOffset i) = some s.seq
  outside : ∀ a, bytesNeeded i ≤ a → (i = .genShort → min s.cfg.zfLen s.cfg.fbLen ≤ a) → m.read a = s.fb.read a
  wf : s.fb.wf = true → m.wf = true
  below : Memory.below s.cfg.fbLen s.fb = true → Memory.below s.cfg.fbLen m = true

/-- The blink frame in FB (R66). -/
def blinkFrame (s : State) (l : Bytes 8) (h : Bytes 2) : Memory :=
  (((s.fb.writeBytes 0 [s.cfg.fcBlink]).writeBytes 1 [s.seq]).writeBytes 2 (rev l).toList).writeBytes 10 (rev h).toList

/-- The short-MAC frame in FB, after the zero-fill (R66, R81). -/
def shortFrame (s : State) (d h : Bytes 2) : Memory :=
  ((((((s.fb.zeroFill (min s.cfg.zfLen s.cfg.fbLen)).writeBytes 0 [s.cfg.fc1]).writeBytes 1
    [s.cfg.fc2Short]).writeBytes 2 [s.seq]).writeBytes 3 panId).writeBytes 5 (rev d).toList).writeBytes 7 (rev h).toList

/-- The long-MAC frame in FB (R66). -/
def longFrame (s : State) (dl sl : Bytes 8) (h : Bytes 2) : Memory :=
  ((((((s.fb.writeBytes 0 [s.cfg.fc1]).writeBytes 1 [s.cfg.fc2Long]).writeBytes 2 [s.seq]).writeBytes 3
    panId).writeBytes 5 (rev dl).toList).writeBytes 13 (rev sl).toList).writeBytes 21 (rev h).toList

@[simp] theorem panId_length : panId.length = 2 := rfl

theorem blinkFrame_read (s : State) (l : Bytes 8) (h : Bytes 2) :
    (blinkFrame s l h).read 0 = some s.cfg.fcBlink ∧ (blinkFrame s l h).read 1 = some s.seq ∧
    (∀ k : Fin 8, (blinkFrame s l h).read (2 + k.val) = some l[7 - k.val]) ∧
    (blinkFrame s l h).read 10 = some h[1] ∧ (blinkFrame s l h).read 11 = some h[0] ∧
    ∀ a, 12 ≤ a → (blinkFrame s l h).read a = s.fb.read a := by
  refine ⟨?_, ?_, fun k => ?_, ?_, ?_, fun a ha => ?_⟩
  · simp [blinkFrame, Memory.read_writeBytes]
  · simp [blinkFrame, Memory.read_writeBytes]
  · have hk := k.isLt
    simp only [blinkFrame, Memory.read_writeBytes, rev_toList_length]
    rw [if_neg (by omega), if_pos (by omega)]
    simp
  · simp [blinkFrame, Memory.read_writeBytes]
  · simp [blinkFrame, Memory.read_writeBytes]
  · simp only [blinkFrame]
    iterate 4 rw [Memory.read_writeBytes_outside _ _ _ _ (by simp; omega)]

theorem shortFrame_read (s : State) (d h : Bytes 2) :
    (shortFrame s d h).read 0 = some s.cfg.fc1 ∧ (shortFrame s d h).read 1 = some s.cfg.fc2Short ∧
    (shortFrame s d h).read 2 = some s.seq ∧ (shortFrame s d h).read 3 = some 0xCA ∧
    (shortFrame s d h).read 4 = some 0xDE ∧ (shortFrame s d h).read 5 = some d[1] ∧
    (shortFrame s d h).read 6 = some d[0] ∧ (shortFrame s d h).read 7 = some h[1] ∧
    (shortFrame s d h).read 8 = some h[0] ∧
    (∀ a, 9 ≤ a → a < min s.cfg.zfLen s.cfg.fbLen → (shortFrame s d h).read a = some 0x00) ∧
    ∀ a, 9 ≤ a → min s.cfg.zfLen s.cfg.fbLen ≤ a → (shortFrame s d h).read a = s.fb.read a := by
  have past : ∀ a, 9 ≤ a →
      (shortFrame s d h).read a = (s.fb.zeroFill (min s.cfg.zfLen s.cfg.fbLen)).read a := by
    intro a ha
    simp only [shortFrame]
    iterate 6 rw [Memory.read_writeBytes_outside _ _ _ _ (by simp; omega)]
  refine ⟨?_, ?_, ?_, ?_, ?_, ?_, ?_, ?_, ?_, fun a ha hz => ?_, fun a ha hz => ?_⟩
  iterate 9 simp [shortFrame, Memory.read_writeBytes, panId]
  · rw [past a ha, Memory.read_zeroFill, if_pos hz]
  · rw [past a ha, Memory.read_zeroFill, if_neg (by omega)]

theorem longFrame_read (s : State) (dl sl : Bytes 8) (h : Bytes 2) :
    (longFrame s dl sl h).read 0 = some s.cfg.fc1 ∧ (longFrame s dl sl h).read 1 = some s.cfg.fc2Long ∧
    (longFrame s dl sl h).read 2 = some s.seq ∧ (longFrame s dl sl h).read 3 = some 0xCA ∧
    (longFrame s dl sl h).read 4 = some 0xDE ∧
    (∀ k : Fin 8, (longFrame s dl sl h).read (5 + k.val) = some dl[7 - k.val]) ∧
    (∀ k : Fin 8, (longFrame s dl sl h).read (13 + k.val) = some sl[7 - k.val]) ∧
    (longFrame s dl sl h).read 21 = some h[1] ∧ (longFrame s dl sl h).read 22 = some h[0] ∧
    ∀ a, 23 ≤ a → (longFrame s dl sl h).read a = s.fb.read a := by
  refine ⟨?_, ?_, ?_, ?_, ?_, fun k => ?_, fun k => ?_, ?_, ?_, fun a ha => ?_⟩
  iterate 5 simp [longFrame, Memory.read_writeBytes, panId]
  · have hk := k.isLt
    simp only [longFrame, Memory.read_writeBytes, rev_toList_length]
    rw [if_neg (by omega), if_neg (by omega), if_pos (by omega)]
    simp
  · have hk := k.isLt
    simp only [longFrame, Memory.read_writeBytes, rev_toList_length]
    rw [if_neg (by omega), if_pos (by omega)]
    simp
  iterate 2 simp [longFrame, Memory.read_writeBytes, panId]
  · simp only [longFrame]
    iterate 7 rw [Memory.read_writeBytes_outside _ _ _ _ (by simp; omega)]

theorem blinkFrame_written (s : State) (l : Bytes 8) (h : Bytes 2) (hN : 12 ≤ s.cfg.fbLen) :
    FrameWritten .genBlink s (blinkFrame s l h) where
  sequence := (blinkFrame_read s l h).2.1
  outside a ha _ := (blinkFrame_read s l h).2.2.2.2.2 a ha
  wf hm := by
    iterate 4 refine Memory.wf_writeBytes ?_ _ _
    exact hm
  below hm := by
    iterate 4 refine Memory.below_writeBytes ?_ _ _ (by simp; omega)
    exact hm

theorem shortFrame_written (s : State) (d h : Bytes 2) (hN : 9 ≤ s.cfg.fbLen) :
    FrameWritten .genShort s (shortFrame s d h) where
  sequence := (shortFrame_read s d h).2.2.1
  outside a ha hz := (shortFrame_read s d h).2.2.2.2.2.2.2.2.2.2 a ha (hz rfl)
  wf hm := by
    iterate 6 refine Memory.wf_writeBytes ?_ _ _
    exact Memory.wf_zeroFill hm _
  below hm := by
    iterate 6 refine Memory.below_writeBytes ?_ _ _ (by simp; omega)
    exact Memory.below_zeroFill hm (by omega)

theorem longFrame_written (s : State) (dl sl : Bytes 8) (h : Bytes 2) (hN : 23 ≤ s.cfg.fbLen) :
    FrameWritten .genLong s (longFrame s dl sl h) where
  sequence := (longFrame_read s dl sl h).2.2.1
  outside a ha _ := (longFrame_read s dl sl h).2.2.2.2.2.2.2.2.2 a ha
  wf hm := by
    iterate 7 refine Memory.wf_writeBytes ?_ _ _
    exact hm
  below hm := by
    iterate 7 refine Memory.below_writeBytes ?_ _ _ (by simp; omega)
    exact hm

/-! ### The frame-control check -/

/-- The frame-control check meets an unwritten byte only when VALIDATE_FC is true and one of the pattern's offsets holds
none (R69, R117 step 4). -/
theorem frameControlMatches_eq_none {i : Instr} {s : State} :
    frameControlMatches i s = none ↔
      s.cfg.validateFc = true ∧ ∃ k, k < (frameControl s.cfg i).length ∧ s.fb.read k = none := by
  unfold frameControlMatches
  split
  next hv => simp [hv, Memory.readBytes_eq_none, Fin.exists_iff]
  next hv => simp [hv]

/-- The check passes exactly when VALIDATE_FC is false or FB holds the pattern (R69). -/
theorem frameControlMatches_eq_some_true {i : Instr} {s : State} :
    frameControlMatches i s = some true ↔
      (s.cfg.validateFc = true →
        ∀ k, k < (frameControl s.cfg i).length → s.fb.read k = (frameControl s.cfg i)[k]?) := by
  unfold frameControlMatches
  split
  next hv =>
    simp only [Option.map_eq_some_iff, beq_iff_eq, Memory.readBytes_eq_some, hv, forall_const, Nat.zero_add]
    constructor
    · rintro ⟨v, hread, hv⟩ k hk
      have hkv := hread ⟨k, hk⟩
      have hlist : v.toList[k]? = some v[k] := by simp [hk]
      rw [hv] at hlist
      rw [hlist]
      exact hkv
    · intro hall
      refine ⟨⟨(frameControl s.cfg i).toArray, by simp⟩, fun k => ?_, by simp⟩
      simp [hall k.val k.isLt]
  next hv => simp [hv]

/-! ### One inversion lemma for a command -/

/-- Everything a command `i` can do to a state, case by case in R117's order. -/
inductive CommandCase (i : Instr) (s : State) : State → Prop where
  /-- The block is halted (R116). -/
  | ignored (halted : s.errCause ≠ 0x00) : CommandCase i s s
  /-- FB is too short (R113). -/
  | tooSmall (running : s.errCause = 0x00) (small : s.cfg.fbLen < bytesNeeded i) :
      CommandCase i s { s with errCause := 0x02, errCmd := encodeByte i }
  /-- A byte the command reads is unwritten (R118). -/
  | unwritten (running : s.errCause = 0x00) (fits : bytesNeeded i ≤ s.cfg.fbLen)
      (missing : operandsWritten i s = false ∨ (i.isDecode = true ∧ frameControlMatches i s = none)) :
      CommandCase i s { s with unwrittenRead := true }
  /-- The frame-control bytes differ (R114). -/
  | mismatch (running : s.errCause = 0x00) (fits : bytesNeeded i ≤ s.cfg.fbLen) (isDecode : i.isDecode = true)
      (operands : operandsWritten i s = true) (differs : frameControlMatches i s = some false) :
      CommandCase i s { s with errCause := 0x03, errCmd := encodeByte i }
  /-- A generate command completes (R83). -/
  | generated (running : s.errCause = 0x00) (fits : bytesNeeded i ≤ s.cfg.fbLen) (isGenerate : i.isDecode = false)
      (operands : operandsWritten i s = true) (m : Memory) (frame : FrameWritten i s m) :
      CommandCase i s { s with fb := m, seq := s.seq + 1 }
  /-- A decode command completes (R94). -/
  | decoded (running : s.errCause = 0x00) (fits : bytesNeeded i ≤ s.cfg.fbLen) (isDecode : i.isDecode = true)
      (operands : operandsWritten i s = true) (matched : frameControlMatches i s = some true)
      (short : Reg 2) (long : Reg 8) (keepsLong : i = .decShort → long = s.outLong) :
      CommandCase i s { s with outShort := short, outLong := long }

/-- `dispatchCommand` with its two checks taken apart. -/
theorem dispatchCommand_case {i : Instr} {s p : State}
    (h : s.errCause = 0x00 → bytesNeeded i ≤ s.cfg.fbLen → CommandCase i s p) :
    CommandCase i s (dispatchCommand i s p) := by
  unfold dispatchCommand
  split
  next hh => exact .ignored (State.halted_eq_true.1 hh)
  next hh =>
    have hr : s.errCause = 0x00 := State.halted_eq_false.1 (by simpa using hh)
    split
    next hs => exact .tooSmall hr hs
    next hs => exact h hr (by omega)

/-- `performDecode` with its checks taken apart. -/
theorem performDecode_case {i : Instr} {s : State} {o : Option State} (hr : s.errCause = 0x00)
    (hN : bytesNeeded i ≤ s.cfg.fbLen) (hd : i.isDecode = true) (ho : operandsWritten i s = o.isSome)
    (hc : ∀ t, o = some t → frameControlMatches i s = some true → CommandCase i s t) :
    CommandCase i s (performDecode i s o) := by
  unfold performDecode
  split
  next t hm => exact hc t rfl hm
  next t hm => exact .mismatch hr hN hd (by simpa using ho) hm
  next hm => exact .unwritten hr hN (.inr ⟨hd, hm⟩)
  next => exact .unwritten hr hN (.inl (by simpa using ho))

/-- `exec` answers a next state, one of the cases of `CommandCase`. -/
theorem exec_case (i : Instr) (s : State) : ∃ t, exec i s = .next t ∧ CommandCase i s t := by
  cases i with
  | genBlink =>
    refine ⟨_, rfl, dispatchCommand_case fun hr hN => ?_⟩
    split
    next l h hl hh =>
      rw [completeGenerate_eq]
      exact .generated hr hN rfl (by simp [operandsWritten, hl, hh]) _ (blinkFrame_written s l h hN)
    next hn =>
      refine .unwritten hr hN (.inl ?_)
      rcases hl : s.srcLong.bytes with _ | l <;> rcases hh : s.srcShort.bytes with _ | h <;> simp_all [operandsWritten]
  | genShort =>
    refine ⟨_, rfl, dispatchCommand_case fun hr hN => ?_⟩
    split
    next d h hd hh =>
      rw [completeGenerate_eq]
      exact .generated hr hN rfl (by simp [operandsWritten, hd, hh]) _ (shortFrame_written s d h hN)
    next hn =>
      refine .unwritten hr hN (.inl ?_)
      rcases hl : s.dstShort.bytes with _ | l <;> rcases hh : s.srcShort.bytes with _ | h <;> simp_all [operandsWritten]
  | genLong =>
    refine ⟨_, rfl, dispatchCommand_case fun hr hN => ?_⟩
    split
    next dl sl h hd hs hh =>
      rw [completeGenerate_eq]
      exact .generated hr hN rfl (by simp [operandsWritten, hd, hs, hh]) _ (longFrame_written s dl sl h hN)
    next hn =>
      refine .unwritten hr hN (.inl ?_)
      rcases hd : s.dstLong.bytes with _ | dl <;> rcases hl : s.srcLong.bytes with _ | l <;>
        rcases hh : s.srcShort.bytes with _ | h <;> simp_all [operandsWritten]
  | decBlink =>
    refine ⟨_, rfl, dispatchCommand_case fun hr hN => performDecode_case hr hN rfl ?_ ?_⟩
    · have hsplit := s.fb.readBytes_isSome_split 2 8 2
      simp only [operandsWritten, hsplit]
      split <;> simp_all
      rcases hl : s.fb.readBytes 2 8 with _ | l <;> rcases hh : s.fb.readBytes 10 2 with _ | h <;> simp_all
    · intro t ht hm
      split at ht
      next l h hl hh =>
        cases ht
        exact .decoded hr hN rfl (by have := s.fb.readBytes_isSome_split 2 8 2; simp_all [operandsWritten]) hm _ _
          (by simp)
      next => cases ht
  | decShort =>
    refine ⟨_, rfl, dispatchCommand_case fun hr hN => performDecode_case hr hN rfl ?_ ?_⟩
    · simp only [operandsWritten]
      split <;> simp_all
    · intro t ht hm
      split at ht
      next h hh =>
        cases ht
        exact .decoded hr hN rfl (by simp [operandsWritten, hh]) hm _ s.outLong (fun _ => rfl)
      next => cases ht
  | decLong =>
    refine ⟨_, rfl, dispatchCommand_case fun hr hN => performDecode_case hr hN rfl ?_ ?_⟩
    · have hsplit := s.fb.readBytes_isSome_split 13 8 2
      simp only [operandsWritten, hsplit]
      split <;> simp_all
      rcases hl : s.fb.readBytes 13 8 with _ | l <;> rcases hh : s.fb.readBytes 21 2 with _ | h <;> simp_all
    · intro t ht hm
      split at ht
      next h l hh hl =>
        cases ht
        exact .decoded hr hN rfl (by have := s.fb.readBytes_isSome_split 13 8 2; simp_all [operandsWritten]) hm _ _
          (by simp)
      next => cases ht

/-! ### The meanings as equations, past the checks of R117 -/

theorem dispatchCommand_run {i : Instr} {s p : State} (hr : s.errCause = 0x00) (hN : bytesNeeded i ≤ s.cfg.fbLen) :
    dispatchCommand i s p = p := by
  rw [dispatchCommand, State.halted_eq_false.2 hr, if_neg (by simp), if_neg (by omega)]

theorem execGenBlink_eq {s : State} {l : Bytes 8} {h : Bytes 2} (hr : s.errCause = 0x00)
    (hN : bytesNeeded .genBlink ≤ s.cfg.fbLen) (hl : s.srcLong = Reg.ofBytes l) (hh : s.srcShort = Reg.ofBytes h) :
    execGenBlink s = .next (completeGenerate s (blinkFrame s l h)) := by
  simp only [execGenBlink, dispatchCommand_run hr hN, hl, hh, Reg.bytes_ofBytes]
  rfl

theorem execGenShort_eq {s : State} {d h : Bytes 2} (hr : s.errCause = 0x00)
    (hN : bytesNeeded .genShort ≤ s.cfg.fbLen) (hd : s.dstShort = Reg.ofBytes d) (hh : s.srcShort = Reg.ofBytes h) :
    execGenShort s = .next (completeGenerate s (shortFrame s d h)) := by
  simp only [execGenShort, dispatchCommand_run hr hN, hd, hh, Reg.bytes_ofBytes]
  rfl

theorem execGenLong_eq {s : State} {dl sl : Bytes 8} {h : Bytes 2} (hr : s.errCause = 0x00)
    (hN : bytesNeeded .genLong ≤ s.cfg.fbLen) (hd : s.dstLong = Reg.ofBytes dl) (hl : s.srcLong = Reg.ofBytes sl)
    (hh : s.srcShort = Reg.ofBytes h) : execGenLong s = .next (completeGenerate s (longFrame s dl sl h)) := by
  simp only [execGenLong, dispatchCommand_run hr hN, hd, hl, hh, Reg.bytes_ofBytes]
  rfl

theorem execDecBlink_eq {s : State} {l : Bytes 8} {h : Bytes 2} (hr : s.errCause = 0x00)
    (hN : bytesNeeded .decBlink ≤ s.cfg.fbLen) (hm : frameControlMatches .decBlink s = some true)
    (hl : s.fb.readBytes 2 8 = some (rev l)) (hh : s.fb.readBytes 10 2 = some (rev h)) :
    execDecBlink s = .next { s with outLong := Reg.ofBytes l, outShort := Reg.ofBytes h } := by
  simp only [execDecBlink, dispatchCommand_run hr hN, performDecode, hm, hl, hh, rev_rev]
  rfl

theorem execDecShort_eq {s : State} {h : Bytes 2} (hr : s.errCause = 0x00)
    (hN : bytesNeeded .decShort ≤ s.cfg.fbLen) (hm : frameControlMatches .decShort s = some true)
    (hh : s.fb.readBytes 7 2 = some (rev h)) : execDecShort s = .next { s with outShort := Reg.ofBytes h } := by
  simp only [execDecShort, dispatchCommand_run hr hN, performDecode, hm, hh, rev_rev]
  rfl

theorem execDecLong_eq {s : State} {l : Bytes 8} {h : Bytes 2} (hr : s.errCause = 0x00)
    (hN : bytesNeeded .decLong ≤ s.cfg.fbLen) (hm : frameControlMatches .decLong s = some true)
    (hl : s.fb.readBytes 13 8 = some (rev l)) (hh : s.fb.readBytes 21 2 = some (rev h)) :
    execDecLong s = .next { s with outShort := Reg.ofBytes h, outLong := Reg.ofBytes l } := by
  simp only [execDecLong, dispatchCommand_run hr hN, performDecode, hm, hl, hh, rev_rev]
  rfl

/-- What a command's operands depend on does not include the host's side. -/
@[simp] theorem operandsWritten_setPending (i : Instr) (s : State) (ts : List Transaction) :
    operandsWritten i { s with pending := ts } = operandsWritten i s := by
  cases i <;> rfl

@[simp] theorem frameControlMatches_setPending (i : Instr) (s : State) (ts : List Transaction) :
    frameControlMatches i { s with pending := ts } = frameControlMatches i s := rfl

/-- The state a command leaves is one of the cases of `CommandCase`. -/
theorem commandCase_of_exec {i : Instr} {s t : State} (h : exec i s = .next t) : CommandCase i s t := by
  obtain ⟨u, hu, hc⟩ := exec_case i s
  rw [h] at hu
  cases hu
  exact hc

end Sys2Proof.Machine
end

