-- ==== Sys2Proof/Laws/Bus.lean ====
section
/-! SUPPORT. The host's port: what each address names (R43), and one inversion lemma for `step`. -/

namespace Sys2Proof.Machine

/-! ### The address map -/

theorem hostMap_cmd (c : Config) : hostMap c cmdAddr = some .cmd := rfl

theorem hostMap_srcShort {c : Config} {a : HostAddr} (k : Fin 2) (h : a.toNat = 0x0004 + k.val) :
    hostMap c a = some (.srcShort k) := by
  have hk := k.isLt
  unfold hostMap
  simp only [h]
  rw [if_neg (by omega), if_neg (by omega), if_neg (by omega), dif_neg (by omega), dif_pos (by omega)]
  simp

theorem hostMap_dstShort {c : Config} {a : HostAddr} (k : Fin 2) (h : a.toNat = 0x0006 + k.val) :
    hostMap c a = some (.dstShort k) := by
  have hk := k.isLt
  unfold hostMap
  simp only [h]
  rw [if_neg (by omega), if_neg (by omega), if_neg (by omega), dif_neg (by omega), dif_neg (by omega),
    dif_pos (by omega)]
  simp

theorem hostMap_srcLong {c : Config} {a : HostAddr} (k : Fin 8) (h : a.toNat = 0x0008 + k.val) :
    hostMap c a = some (.srcLong k) := by
  have hk := k.isLt
  unfold hostMap
  simp only [h]
  rw [if_neg (by omega), if_neg (by omega), if_neg (by omega), dif_neg (by omega), dif_neg (by omega),
    dif_neg (by omega), dif_pos (by omega)]
  simp

theorem hostMap_dstLong {c : Config} {a : HostAddr} (k : Fin 8) (h : a.toNat = 0x0010 + k.val) :
    hostMap c a = some (.dstLong k) := by
  have hk := k.isLt
  unfold hostMap
  simp only [h]
  rw [if_neg (by omega), if_neg (by omega), if_neg (by omega), dif_neg (by omega), dif_neg (by omega),
    dif_neg (by omega), dif_neg (by omega), dif_pos (by omega)]
  simp

theorem hostMap_outShort {c : Config} {a : HostAddr} (k : Fin 2) (h : a.toNat = 0x0018 + k.val) :
    hostMap c a = some (.outShort k) := by
  have hk := k.isLt
  unfold hostMap
  simp only [h]
  rw [if_neg (by omega), if_neg (by omega), if_neg (by omega), dif_neg (by omega), dif_neg (by omega),
    dif_neg (by omega), dif_neg (by omega), dif_neg (by omega), dif_pos (by omega)]
  simp

theorem hostMap_outLong {c : Config} {a : HostAddr} (k : Fin 8) (h : a.toNat = 0x0020 + k.val) :
    hostMap c a = some (.outLong k) := by
  have hk := k.isLt
  unfold hostMap
  simp only [h]
  rw [if_neg (by omega), if_neg (by omega), if_neg (by omega), dif_neg (by omega), dif_neg (by omega),
    dif_neg (by omega), dif_neg (by omega), dif_neg (by omega), dif_neg (by omega), dif_neg (by omega),
    dif_pos (by omega)]
  simp

theorem hostMap_fb {c : Config} {a : HostAddr} {i : Nat} (hi : i < c.fbLen) (h : a.toNat = 0x0100 + i) :
    hostMap c a = some (.fb i) := by
  unfold hostMap
  simp only [h]
  rw [if_neg (by omega), if_neg (by omega), if_neg (by omega), dif_neg (by omega), dif_neg (by omega),
    dif_neg (by omega), dif_neg (by omega), dif_neg (by omega), dif_neg (by omega), dif_neg (by omega),
    dif_neg (by omega), if_neg (by omega), if_pos (by omega)]
  simp

theorem hostMap_errCause {c : Config} {a : HostAddr} (h : a.toNat = 0x0001) : hostMap c a = some .errCause := by
  simp [hostMap, h]

theorem hostMap_errCmd {c : Config} {a : HostAddr} (h : a.toNat = 0x0002) : hostMap c a = some .errCmd := by
  simp [hostMap, h]

/-- A reserved address names nothing (R43). -/
theorem hostMap_reserved {c : Config} {a : HostAddr}
    (h : a.toNat = 0x0003 ∨ (0x001A ≤ a.toNat ∧ a.toNat ≤ 0x001F) ∨ (0x0028 ≤ a.toNat ∧ a.toNat ≤ 0x00FF) ∨
      0x0100 + c.fbLen ≤ a.toNat) : hostMap c a = none := by
  unfold hostMap
  simp only
  rw [if_neg (by omega), if_neg (by omega), if_neg (by omega)]
  by_cases h3 : a.toNat < 0x0004
  · rw [dif_pos h3]
  · rw [dif_neg h3, dif_neg (by omega), dif_neg (by omega), dif_neg (by omega), dif_neg (by omega), dif_neg (by omega)]
    by_cases h1A : a.toNat < 0x0020
    · rw [dif_pos h1A]
    · rw [dif_neg h1A, dif_neg (by omega)]
      by_cases h28 : a.toNat < 0x0100
      · rw [if_pos h28]
      · rw [if_neg h28, if_neg (by omega)]

/-- Where the map of R43 puts each piece of state. -/
def HostLoc.At (c : Config) (a : HostAddr) : HostLoc → Prop
  | .cmd => a.toNat = 0x0000
  | .errCause => a.toNat = 0x0001
  | .errCmd => a.toNat = 0x0002
  | .srcShort k => a.toNat = 0x0004 + k.val
  | .dstShort k => a.toNat = 0x0006 + k.val
  | .srcLong k => a.toNat = 0x0008 + k.val
  | .dstLong k => a.toNat = 0x0010 + k.val
  | .outShort k => a.toNat = 0x0018 + k.val
  | .outLong k => a.toNat = 0x0020 + k.val
  | .fb i => a.toNat = 0x0100 + i ∧ i < c.fbLen

/-- Every address is reserved or names what lies there (R43). -/
theorem hostMap_total (c : Config) (a : HostAddr) :
    (hostMap c a = none ∧ (a.toNat = 0x0003 ∨ (0x001A ≤ a.toNat ∧ a.toNat ≤ 0x001F) ∨
      (0x0028 ≤ a.toNat ∧ a.toNat ≤ 0x00FF) ∨ 0x0100 + c.fbLen ≤ a.toNat)) ∨
    ∃ loc, hostMap c a = some loc ∧ loc.At c a := by
  by_cases hr : a.toNat = 0x0003 ∨ (0x001A ≤ a.toNat ∧ a.toNat ≤ 0x001F) ∨
      (0x0028 ≤ a.toNat ∧ a.toNat ≤ 0x00FF) ∨ 0x0100 + c.fbLen ≤ a.toNat
  · exact .inl ⟨hostMap_reserved hr, hr⟩
  refine .inr ?_
  rcases Nat.lt_or_ge a.toNat 4 with h | h
  · rcases (by omega : a.toNat = 0 ∨ a.toNat = 1 ∨ a.toNat = 2) with h | h | h
    · exact ⟨.cmd, by rw [show a = cmdAddr from BitVec.eq_of_toNat_eq h]; rfl, h⟩
    · exact ⟨.errCause, hostMap_errCause h, h⟩
    · exact ⟨.errCmd, hostMap_errCmd h, h⟩
  rcases Nat.lt_or_ge a.toNat 6 with h' | h
  · exact ⟨_, hostMap_srcShort ⟨a.toNat - 4, by omega⟩ (by simp; omega), by simp [HostLoc.At]; omega⟩
  rcases Nat.lt_or_ge a.toNat 8 with h' | h
  · exact ⟨_, hostMap_dstShort ⟨a.toNat - 6, by omega⟩ (by simp; omega), by simp [HostLoc.At]; omega⟩
  rcases Nat.lt_or_ge a.toNat 16 with h' | h
  · exact ⟨_, hostMap_srcLong ⟨a.toNat - 8, by omega⟩ (by simp; omega), by simp [HostLoc.At]; omega⟩
  rcases Nat.lt_or_ge a.toNat 24 with h' | h
  · exact ⟨_, hostMap_dstLong ⟨a.toNat - 16, by omega⟩ (by simp; omega), by simp [HostLoc.At]; omega⟩
  rcases Nat.lt_or_ge a.toNat 26 with h' | h
  · exact ⟨_, hostMap_outShort ⟨a.toNat - 24, by omega⟩ (by simp; omega), by simp [HostLoc.At]; omega⟩
  rcases Nat.lt_or_ge a.toNat 40 with h' | h
  · exact ⟨_, hostMap_outLong ⟨a.toNat - 32, by omega⟩ (by simp; omega), by simp [HostLoc.At]; omega⟩
  · exact ⟨_, hostMap_fb (i := a.toNat - 256) (by omega) (by omega), by simp [HostLoc.At]; omega⟩

/-- What an address names tells where it lies (R43). -/
theorem hostMap_at {c : Config} {a : HostAddr} {loc : HostLoc} (h : hostMap c a = some loc) : loc.At c a := by
  rcases hostMap_total c a with ⟨hn, _⟩ | ⟨loc', hl, hat⟩
  · rw [hn] at h; cases h
  · rw [hl] at h; cases h; exact hat

/-- An address names nothing exactly where R43 says reserved. -/
theorem hostMap_eq_none {c : Config} {a : HostAddr} :
    hostMap c a = none ↔ (a.toNat = 0x0003 ∨ (0x001A ≤ a.toNat ∧ a.toNat ≤ 0x001F) ∨
      (0x0028 ≤ a.toNat ∧ a.toNat ≤ 0x00FF) ∨ 0x0100 + c.fbLen ≤ a.toNat) := by
  refine ⟨fun h => ?_, hostMap_reserved⟩
  rcases hostMap_total c a with ⟨_, hr⟩ | ⟨loc, hl, _⟩
  · exact hr
  · rw [hl] at h; cases h

/-- Only address 0x0000 is CMD (R43). -/
theorem hostMap_eq_cmd {c : Config} {a : HostAddr} : hostMap c a = some .cmd ↔ a = cmdAddr := by
  constructor
  · exact fun h => BitVec.eq_of_toNat_eq (hostMap_at h)
  · rintro rfl; rfl

/-! ### One inversion lemma for a step -/

/-- Everything a step can do to a state when it answers a next state, by the host's next transaction. -/
inductive StepCase (s : State) : State → Prop where
  /-- No transaction is pending (log entry 1). -/
  | idle (empty : s.pending = []) : StepCase s s
  /-- Reset is asserted (R130). -/
  | reset (rest : List Transaction) (next : s.pending = .reset :: rest) :
      StepCase s (assertReset { s with pending := rest })
  /-- A command byte is written to CMD (R30). -/
  | command (i : Instr) (c : Byte) (rest : List Transaction) (next : s.pending = .write cmdAddr c :: rest)
      (decoded : decodeByte c = .ok i) (t : State) (result : CommandCase i { s with pending := rest } t) : StepCase s t
  /-- Any byte is written to CMD of a halted block (R116). -/
  | illegalIgnored (c : Byte) (rest : List Transaction) (next : s.pending = .write cmdAddr c :: rest)
      (illegal : ∀ i, decodeByte c ≠ .ok i) (halted : s.errCause ≠ 0x00) : StepCase s { s with pending := rest }
  /-- A byte that is no command is written to CMD (R112). -/
  | illegal (c : Byte) (rest : List Transaction) (next : s.pending = .write cmdAddr c :: rest)
      (error : ∀ i, decodeByte c ≠ .ok i) (running : s.errCause = 0x00) :
      StepCase s { s with pending := rest, errCause := 0x01, errCmd := c }
  /-- SRC_SHORT[k] is written (R44). -/
  | wroteSrcShort (a : HostAddr) (v : Byte) (rest : List Transaction) (next : s.pending = .write a v :: rest)
      (other : a ≠ cmdAddr) (k : Fin 2) : StepCase s { s with pending := rest, srcShort := s.srcShort.setByte k v }
  /-- DST_SHORT[k] is written (R44). -/
  | wroteDstShort (a : HostAddr) (v : Byte) (rest : List Transaction) (next : s.pending = .write a v :: rest)
      (other : a ≠ cmdAddr) (k : Fin 2) : StepCase s { s with pending := rest, dstShort := s.dstShort.setByte k v }
  /-- SRC_LONG[k] is written (R44). -/
  | wroteSrcLong (a : HostAddr) (v : Byte) (rest : List Transaction) (next : s.pending = .write a v :: rest)
      (other : a ≠ cmdAddr) (k : Fin 8) : StepCase s { s with pending := rest, srcLong := s.srcLong.setByte k v }
  /-- DST_LONG[k] is written (R44). -/
  | wroteDstLong (a : HostAddr) (v : Byte) (rest : List Transaction) (next : s.pending = .write a v :: rest)
      (other : a ≠ cmdAddr) (k : Fin 8) : StepCase s { s with pending := rest, dstLong := s.dstLong.setByte k v }
  /-- FB[i] is written (R44). -/
  | wroteFb (a : HostAddr) (v : Byte) (rest : List Transaction) (next : s.pending = .write a v :: rest)
      (other : a ≠ cmdAddr) (i : Nat) (inside : i < s.cfg.fbLen) :
      StepCase s { s with pending := rest, fb := s.fb.write i v }
  /-- A read is answered (R45). -/
  | answered (a : HostAddr) (b : Byte) (rest : List Transaction) (next : s.pending = .read a :: rest) :
      StepCase s { s with pending := rest, answers := s.answers ++ [{ addr := a, data := b }] }
  /-- A read meets an unwritten byte (R118). -/
  | unwritten (a : HostAddr) (rest : List Transaction) (next : s.pending = .read a :: rest) :
      StepCase s { s with pending := rest, unwrittenRead := true }

theorem step_of_write {s : State} {a : HostAddr} {v : Byte} {rest : List Transaction}
    (h : s.pending = .write a v :: rest) : step s = hostWrite a v (s.setPending rest) := by
  simp [step, nextEvent, h, transact]

theorem step_of_read {s : State} {a : HostAddr} {rest : List Transaction} (h : s.pending = .read a :: rest) :
    step s = hostRead a (s.setPending rest) := by
  simp [step, nextEvent, h, transact]

theorem step_of_reset {s : State} {rest : List Transaction} (h : s.pending = .reset :: rest) :
    step s = .next (assertReset (s.setPending rest)) := by
  simp [step, nextEvent, h, transact]

theorem step_of_command {s : State} {c : Byte} {rest : List Transaction} (h : s.pending = .write cmdAddr c :: rest) :
    step s = issueCommand c (s.setPending rest) := by
  rw [step_of_write h]
  rfl

/-- One step of a run (R54). -/
theorem run_succ {k : Nat} {s t : State} (h : step s = .next t) :
    Host.Core.run Sys2Proof.core (k + 1) s = Host.Core.run Sys2Proof.core k t := by
  simp only [Host.Core.run]
  rw [show Sys2Proof.core.step s = .next t from h]

theorem issueCommand_of_ok {c : Byte} {i : Instr} (h : decodeByte c = .ok i) (s : State) :
    issueCommand c s = exec i s := by
  simp [issueCommand, decode, h]

theorem issueCommand_of_error {c : Byte} {e : DecodeError} (h : decodeByte c = .error e) (s : State) :
    issueCommand c s = .next (if s.halted then s else raiseFault .illegalCommand c s) := by
  simp [issueCommand, decode, h]

theorem answerRead_case {a : HostAddr} {x : Option Byte} {s t : State} {rest : List Transaction}
    (hp : s.pending = .read a :: rest) (h : answerRead a x (s.setPending rest) = .next t) : StepCase s t := by
  unfold answerRead at h
  split at h
  · cases h; exact .answered a _ rest hp
  · cases h; exact .unwritten a rest hp

/-- A step that answers a next state did one of these. -/
theorem step_case {s t : State} (h : step s = .next t) : StepCase s t := by
  unfold step nextEvent at h
  split at h
  next hp => cases h; exact .idle hp
  next tr rest hp =>
    cases tr with
    | reset => cases h; exact .reset rest hp
    | write a v =>
      simp only [transact, hostWrite] at h
      split at h
      next hm =>
        obtain rfl := hostMap_eq_cmd.1 hm
        rcases hd : decodeByte v with e | i
        · have herr : ∀ i, decodeByte v ≠ .ok i := by simp [hd]
          rw [issueCommand_of_error hd] at h
          cases h
          split
          next hh => exact .illegalIgnored v rest hp herr (State.halted_eq_true.1 hh)
          next hh => exact .illegal v rest hp herr (State.halted_eq_false.1 (by simpa [State.halted] using hh))
        · rw [issueCommand_of_ok hd] at h
          exact .command i v rest hp hd t (commandCase_of_exec h)
      next hm => cases h; exact .wroteSrcShort a v rest hp (fun ha => by simp [ha, hostMap_cmd] at hm) _
      next hm => cases h; exact .wroteDstShort a v rest hp (fun ha => by simp [ha, hostMap_cmd] at hm) _
      next hm => cases h; exact .wroteSrcLong a v rest hp (fun ha => by simp [ha, hostMap_cmd] at hm) _
      next hm => cases h; exact .wroteDstLong a v rest hp (fun ha => by simp [ha, hostMap_cmd] at hm) _
      next i hm =>
        cases h
        exact .wroteFb a v rest hp (fun ha => by simp [ha, hostMap_cmd] at hm) i (hostMap_at hm).2
      all_goals cases h
    | read a =>
      simp only [transact, hostRead] at h
      split at h
      all_goals first | exact answerRead_case hp h | cases h

end Sys2Proof.Machine
end

