-- ==== Sys2Proof/Laws/Known.lean ====
section
/-! SUPPORT. States that differ only in the values of unwritten register bytes (R36): the relation field by field, and each
operation that keeps it. -/

namespace Sys2Proof.Machine

/-! ### Registers -/

theorem Reg.sameKnown_iff {n : Nat} {r q : Reg n} : r.sameKnown q = true ↔ ∀ k : Fin n, r[k].read = q[k].read := by
  simp [Reg.sameKnown]

@[simp] theorem Reg.sameKnown_self {n : Nat} (r : Reg n) : r.sameKnown r = true := by simp [Reg.sameKnown]

/-- Writing the same byte to both keeps them alike. -/
theorem Reg.sameKnown_setByte {n : Nat} {r q : Reg n} (h : r.sameKnown q = true) (k : Fin n) (v : Byte) :
    (r.setByte k v).sameKnown (q.setByte k v) = true := by
  rw [Reg.sameKnown_iff] at h ⊢
  intro j
  have hj := h j
  simp only [Fin.getElem_fin, Reg.setByte_getElem] at hj ⊢
  split
  · rfl
  · exact hj

/-- Two registers whose known bytes are the same have the same whole value, or both have none. -/
theorem Reg.bytes_congr {n : Nat} {r q : Reg n} (h : r.sameKnown q = true) : r.bytes = q.bytes := by
  rw [Reg.sameKnown_iff] at h
  rcases hq : q.bytes with _ | v
  · obtain ⟨k, hk⟩ := Reg.bytes_eq_none.1 hq
    exact Reg.bytes_eq_none.2 ⟨k, RegByte.read_eq_none.1 (by rw [h k, RegByte.read_eq_none.2 hk])⟩
  · rw [Reg.bytes_eq_some] at hq ⊢
    subst hq
    refine Vector.ext fun k hk => ?_
    have hk' := h ⟨k, hk⟩
    simp only [Fin.getElem_fin, Reg.ofBytes_getElem, RegByte.read_written, RegByte.read_eq_some] at hk'
    simpa using hk'

/-! ### States -/

/-- `State.sameKnown`, field by field. -/
structure SameKnown (s t : State) : Prop where
  cfg : t.cfg = s.cfg
  seq : t.seq = s.seq
  srcShort : s.srcShort.sameKnown t.srcShort = true
  dstShort : s.dstShort.sameKnown t.dstShort = true
  srcLong : s.srcLong.sameKnown t.srcLong = true
  dstLong : s.dstLong.sameKnown t.dstLong = true
  fb : t.fb = s.fb
  outShort : s.outShort.sameKnown t.outShort = true
  outLong : s.outLong.sameKnown t.outLong = true
  errCause : t.errCause = s.errCause
  errCmd : t.errCmd = s.errCmd
  unwrittenRead : t.unwrittenRead = s.unwrittenRead
  pending : t.pending = s.pending
  answers : t.answers = s.answers

theorem State.sameKnown_iff {s t : State} : s.sameKnown t = true ↔ SameKnown s t := by
  constructor
  · intro h
    simp only [State.sameKnown, Bool.and_eq_true, beq_iff_eq] at h
    obtain ⟨⟨⟨⟨⟨⟨⟨⟨⟨⟨⟨⟨⟨h1, h2⟩, h3⟩, h4⟩, h5⟩, h6⟩, h7⟩, h8⟩, h9⟩, h10⟩, h11⟩, h12⟩, h13⟩, h14⟩ := h
    exact ⟨h1.symm, h2.symm, h3, h4, h5, h6, h7.symm, h8, h9, h10.symm, h11.symm, h12.symm, h13.symm, h14.symm⟩
  · intro h
    simp only [State.sameKnown, Bool.and_eq_true, beq_iff_eq]
    exact ⟨⟨⟨⟨⟨⟨⟨⟨⟨⟨⟨⟨⟨h.cfg.symm, h.seq.symm⟩, h.srcShort⟩, h.dstShort⟩, h.srcLong⟩, h.dstLong⟩, h.fb.symm⟩, h.outShort⟩,
      h.outLong⟩, h.errCause.symm⟩, h.errCmd.symm⟩, h.unwrittenRead.symm⟩, h.pending.symm⟩, h.answers.symm⟩

theorem SameKnown.setSeq {s t : State} (h : SameKnown s t) (v : Byte) : SameKnown (s.setSeq v) (t.setSeq v) :=
  { h with seq := rfl }

theorem SameKnown.setFb {s t : State} (h : SameKnown s t) (m : Memory) : SameKnown (s.setFb m) (t.setFb m) :=
  { h with fb := rfl }

theorem SameKnown.setSrcShort {s t : State} (h : SameKnown s t) {r q : Reg 2} (hr : r.sameKnown q = true) :
    SameKnown (s.setSrcShort r) (t.setSrcShort q) :=
  { h with srcShort := hr }

theorem SameKnown.setDstShort {s t : State} (h : SameKnown s t) {r q : Reg 2} (hr : r.sameKnown q = true) :
    SameKnown (s.setDstShort r) (t.setDstShort q) :=
  { h with dstShort := hr }

theorem SameKnown.setSrcLong {s t : State} (h : SameKnown s t) {r q : Reg 8} (hr : r.sameKnown q = true) :
    SameKnown (s.setSrcLong r) (t.setSrcLong q) :=
  { h with srcLong := hr }

theorem SameKnown.setDstLong {s t : State} (h : SameKnown s t) {r q : Reg 8} (hr : r.sameKnown q = true) :
    SameKnown (s.setDstLong r) (t.setDstLong q) :=
  { h with dstLong := hr }

theorem SameKnown.setOutShort {s t : State} (h : SameKnown s t) (r : Reg 2) :
    SameKnown (s.setOutShort r) (t.setOutShort r) :=
  { h with outShort := Reg.sameKnown_self r }

theorem SameKnown.setOutLong {s t : State} (h : SameKnown s t) (r : Reg 8) :
    SameKnown (s.setOutLong r) (t.setOutLong r) :=
  { h with outLong := Reg.sameKnown_self r }

theorem SameKnown.setPending {s t : State} (h : SameKnown s t) (ts : List Transaction) :
    SameKnown (s.setPending ts) (t.setPending ts) :=
  { h with pending := rfl }

theorem SameKnown.answer {s t : State} (h : SameKnown s t) (r : Answer) : SameKnown (s.answer r) (t.answer r) :=
  { h with answers := by simp [h.answers] }

theorem SameKnown.raiseFault {s t : State} (h : SameKnown s t) (k : FaultCause) (c : Byte) :
    SameKnown (raiseFault k c s) (raiseFault k c t) :=
  { h with errCause := rfl, errCmd := rfl }

theorem SameKnown.recordUnwrittenRead {s t : State} (h : SameKnown s t) :
    SameKnown (recordUnwrittenRead s) (recordUnwrittenRead t) :=
  { h with unwrittenRead := rfl }

theorem SameKnown.completeGenerate {s t : State} (h : SameKnown s t) (m : Memory) :
    SameKnown (completeGenerate s m) (completeGenerate t m) := by
  unfold Sys2Proof.Machine.completeGenerate
  rw [h.seq]
  exact (h.setFb m).setSeq _

theorem SameKnown.dispatchCommand {s t p q : State} (h : SameKnown s t) (i : Instr) (hp : SameKnown p q) :
    SameKnown (dispatchCommand i s p) (dispatchCommand i t q) := by
  unfold Sys2Proof.Machine.dispatchCommand State.halted
  rw [h.errCause, h.cfg]
  split
  · exact h
  · split
    · exact h.raiseFault _ _
    · exact hp

theorem SameKnown.frameControlMatches {s t : State} (h : SameKnown s t) (i : Instr) :
    frameControlMatches i t = frameControlMatches i s := by
  have hc := h.cfg
  have hf := h.fb
  cases s
  cases t
  cases hc
  cases hf
  rfl

end Sys2Proof.Machine
end

