-- ==== Sys2Proof/Laws/PerInstr.lean ====
section
/-! SUPPORT. The family Encoding: what every instruction satisfies as syntax, one lemma per constructor (R60, R61, R62). -/

namespace Sys2Proof.Laws.Encoding

/-- A well-formed instruction is one byte that decodes back to it, whatever follows, with RSV zero, DIR set exactly for the
decode commands and FT the frame type (R60, R61). -/
def Statement (i : Instr) : Prop :=
  i.WellFormed = true ∧ (encode i).length = 1 ∧ (∀ rest, decode (encode i ++ rest) = .ok (i, rest)) ∧
    rsvField (encodeByte i) = 0 ∧ (dirField (encodeByte i) = 1 ↔ i.isDecode = true) ∧ ftField (encodeByte i) ≠ 0

theorem genBlink : Statement .genBlink := ⟨rfl, rfl, fun _ => rfl, by decide, by decide, by decide⟩

theorem genShort : Statement .genShort := ⟨rfl, rfl, fun _ => rfl, by decide, by decide, by decide⟩

theorem genLong : Statement .genLong := ⟨rfl, rfl, fun _ => rfl, by decide, by decide, by decide⟩

theorem decBlink : Statement .decBlink := ⟨rfl, rfl, fun _ => rfl, by decide, by decide, by decide⟩

theorem decShort : Statement .decShort := ⟨rfl, rfl, fun _ => rfl, by decide, by decide, by decide⟩

theorem decLong : Statement .decLong := ⟨rfl, rfl, fun _ => rfl, by decide, by decide, by decide⟩

end Sys2Proof.Laws.Encoding
end

