-- ==== Sys2Proof/Laws/Program.lean ====
section
/-! SUPPORT. Programs: the addresses of an expansion are exactly those R71 writes, with none cut to 16 bits (assumption 12),
and what `assemble` answers. -/

namespace Sys2Proof.Machine

/-- Consecutive writes that stay in the address space name the addresses R71 names, each with its byte, in order. -/
theorem writesFrom_getElem? : ∀ {a : Nat} {bs : List Byte} {k : Nat} (hk : k < bs.length), a + bs.length ≤ 0x10000 →
    ∃ w : HostAddr, w.toNat = a + k ∧ (writesFrom a bs)[k]? = some (.write w bs[k])
  | a, _ :: _, 0, _, ha => ⟨BitVec.ofNat 16 a, by simp only [List.length_cons, BitVec.toNat_ofNat] at *; omega, rfl⟩
  | a, _ :: bs, k + 1, hk, ha => by
    simp only [List.length_cons] at hk ha
    obtain ⟨w, hw, h⟩ := writesFrom_getElem? (a := a + 1) (bs := bs) (k := k) (by omega) (by omega)
    exact ⟨w, by omega, by simpa [writesFrom] using h⟩

/-- Consecutive reads that stay in the address space name the addresses R71 names, in order. -/
theorem readsFrom_getElem? : ∀ {a m k : Nat}, k < m → a + m ≤ 0x10000 →
    ∃ w : HostAddr, w.toNat = a + k ∧ (readsFrom a m)[k]? = some (.read w)
  | a, m + 1, 0, _, ha => ⟨BitVec.ofNat 16 a, by simp only [BitVec.toNat_ofNat]; omega, rfl⟩
  | a, m + 1, k + 1, hk, ha => by
    obtain ⟨w, hw, h⟩ := readsFrom_getElem? (a := a + 1) (m := m) (k := k) (by omega) (by omega)
    exact ⟨w, by omega, by simpa [readsFrom] using h⟩

/-- A program that assembles is the expansion of lines that are all addressable, and only such lines assemble. -/
theorem assemble_eq_some_iff {lines : List Line} {ts : List Transaction} :
    assemble lines = some ts ↔ (∀ l ∈ lines, l.addressable = true) ∧ ts = lines.flatMap Line.expand := by
  unfold assemble
  split <;> rename_i h <;> rw [List.all_eq_true] at h
  · exact ⟨fun e => ⟨h, (Option.some.inj e).symm⟩, fun e => e.2 ▸ rfl⟩
  · exact ⟨nofun, fun e => absurd e.1 h⟩

end Sys2Proof.Machine
end

