-- ==== Sys2Proof/Tests/Slice0.lean ====
section
/-! SUPPORT. Tests: the well-formedness smoke, the command bytes written out from R61 and R62, one step of each command on
the spec's vectors (95_test_vectors.md), and for every statement of Certificates/Slice0/Obligations.lean with hypotheses a
witness that meets them. -/

namespace Sys2Proof.Tests

open Sys2Proof.Machine

/-! ### Builders -/

/-- The reference configuration with another FB_LEN and ZF_LEN and with or without validation. -/
def config (fbLen zfLen : Nat) (validate : Bool) : Config :=
  { Config.reference with fbLen := fbLen, zfLen := zfLen, validateFc := validate }

/-- The operands of vectors G-S1 and G-L1, all written. -/
def loaded (c : Config) : State :=
  ((((State.resetWith c).setSrcShort (Reg.ofBytes #v[0x12, 0x34])).setDstShort (Reg.ofBytes #v[0x56, 0x78])).setSrcLong
    (Reg.ofBytes #v[0x11, 0x12, 0x13, 0x14, 0x15, 0x16, 0x17, 0x18])).setDstLong
    (Reg.ofBytes #v[0x21, 0x22, 0x23, 0x24, 0x25, 0x26, 0x27, 0x28])

/-- FB holds `bs` from offset 0 on. -/
def holding (bs : List Byte) (s : State) : State := s.setFb (Memory.writeBytes [] 0 bs)

/-- The next state of an outcome. -/
def after (o : Host.Outcome State Fault Refusal) : Option State :=
  match o with
  | .next s => some s
  | .fault _ => none
  | .refused _ => none

/-- The refusal of an outcome. -/
def refusal (o : Host.Outcome State Fault Refusal) : Option Refusal :=
  match o with
  | .next _ => none
  | .fault _ => none
  | .refused r => some r

/-- The first `n` bytes of FB after a step, none where unwritten. -/
def frameAfter (n : Nat) (o : Host.Outcome State Fault Refusal) : Option (List (Option Byte)) :=
  (after o).map fun t => (List.range n).map t.fb.read

/-- ERR_CAUSE, ERR_CMD and the UnwrittenRead mark after a step. -/
def statusAfter (o : Host.Outcome State Fault Refusal) : Option (Byte × Byte × Bool) :=
  (after o).map fun t => (t.errCause, t.errCmd, t.unwrittenRead)

/-- The blink frame of vector D-B1. -/
def blinkBytes : List Byte := [0xC5, 0x00, 0x08, 0x07, 0x06, 0x05, 0x04, 0x03, 0x02, 0x01, 0xCD, 0xAB]

/-- The short-MAC frame of vector D-S1. -/
def shortBytes : List Byte := [0x41, 0x88, 0x05, 0xCA, 0xDE, 0x78, 0x56, 0x34, 0x12]

/-- The long-MAC frame of vector D-L1. -/
def longBytes : List Byte :=
  [0x41, 0x8C, 0xFF, 0xCA, 0xDE, 0x28, 0x27, 0x26, 0x25, 0x24, 0x23, 0x22, 0x21, 0x18, 0x17, 0x16, 0x15, 0x14, 0x13, 0x12,
    0x11, 0x34, 0x12]

/-! ### Well-formedness smoke -/

theorem test_config_limit : (config 65280 0 false).WellFormed = true ∧ (config 65281 0 false).WellFormed = false := by
  decide

theorem test_memory_form : Memory.wf [(0, 1), (2, 1)] = true ∧ Memory.wf [(2, 1), (0, 1)] = false ∧
    Memory.wf [(2, 1), (2, 3)] = false := by decide

theorem test_invariant_refuses : State.inv { State.reset with errCause := 0x04 } = false ∧
    State.inv { State.reset with errCmd := 0x01 } = false ∧ State.inv { State.reset with fb := [(23, 0)] } = false ∧
    State.inv { State.reset with errCause := 0x01, errCmd := 0x01 } = false ∧
    State.inv { State.reset with errCause := 0x03, errCmd := 0x05 } = false := by decide

theorem test_invariant_accepts : State.inv { State.reset with errCause := 0x01, errCmd := 0x04 } = true ∧
    State.inv { State.resetWith (config 22 0 false) with errCause := 0x02, errCmd := 0x03 } = true ∧
    State.inv { State.resetWith (config 23 0 true) with errCause := 0x03, errCmd := 0x05 } = true := by decide

/-! ### Command bytes, bit by bit from R61 and R62 -/

theorem test_decode_genBlink : decode [0b00000001, 0xFF] = .ok (.genBlink, [0xFF]) := rfl

theorem test_decode_genShort : decode [0b00000010] = .ok (.genShort, []) := rfl

theorem test_decode_genLong : decode [0b00000011] = .ok (.genLong, []) := rfl

theorem test_decode_decBlink : decode [0b00000101] = .ok (.decBlink, []) := rfl

theorem test_decode_decShort : decode [0b00000110] = .ok (.decShort, []) := rfl

theorem test_decode_decLong : decode [0b00000111] = .ok (.decLong, []) := rfl

theorem test_decode_rejects : decode [0x00] = .error (.noFrameType 0x00) ∧ decode [0x04] = .error (.noFrameType 0x04) ∧
    decode [0x09] = .error (.reservedBits 0x09) ∧ decode [0xFF] = .error (.reservedBits 0xFF) ∧
    decode [] = .error .truncated := ⟨rfl, rfl, rfl, rfl, rfl⟩

theorem test_table_words : decodeTableWord 8 7 = some .decLong ∧ decodeTableWord 8 8 = none := by decide

/-! ### Helper vectors (V-R, V-I) -/

theorem test_rev : rev (#v[0x12, 0x34] : Bytes 2) = #v[0x34, 0x12] ∧
    rev (#v[0, 1, 2, 3, 4, 5, 6, 7] : Bytes 8) = #v[7, 6, 5, 4, 3, 2, 1, 0] := by decide

theorem test_inc : inc 0x00 = 0x01 ∧ inc 0x7F = 0x80 ∧ inc 0xFE = 0xFF ∧ inc 0xFF = 0x00 := by decide

/-- R13 and R41: 0xDE, 0xCA read most significant byte first and least significant byte first. -/
theorem test_pan_readings : readBigEndian panId = 0xCADE ∧ readLittleEndian panId = 0xDECA := by decide

/-! ### One step of each command, on the spec's vectors -/

/-- G-B2, with the operands of G-B2: the wrap of SEQ. -/
theorem test_genBlink_wraps :
    frameAfter 13 (exec .genBlink ((((loaded Config.reference).setSeq 0xFF).setSrcLong
      (Reg.ofBytes #v[1, 2, 3, 4, 5, 6, 7, 8])).setSrcShort (Reg.ofBytes #v[0xAB, 0xCD]))) =
      some [some 0xC5, some 0xFF, some 8, some 7, some 6, some 5, some 4, some 3, some 2, some 1, some 0xCD, some 0xAB,
        none] ∧
    (after (exec .genBlink ((loaded Config.reference).setSeq 0xFF))).map State.seq = some 0x00 := by decide

/-- G-B7: an unwritten operand. -/
theorem test_genBlink_unwritten :
    (after (exec .genBlink State.reset)) = some { State.reset with unwrittenRead := true } := by decide

/-- G-S5: the fill stops at ZF_LEN. -/
theorem test_genShort_zeroFill :
    frameAfter 14 (exec .genShort (holding (List.replicate 14 0xEE) (loaded (config 23 12 false)))) =
      some [some 0x41, some 0x88, some 0x00, some 0xCA, some 0xDE, some 0x78, some 0x56, some 0x34, some 0x12, some 0x00,
        some 0x00, some 0x00, some 0xEE, some 0xEE] := by decide

/-- G-S7: too small a buffer, nothing written, SEQ kept. -/
theorem test_genShort_small : (after (exec .genShort (loaded (config 8 8 false)))) =
    some { loaded (config 8 8 false) with errCause := 0x02, errCmd := 0x02 } := by decide

/-- G-L1. -/
theorem test_genLong : frameAfter 23 (exec .genLong ((loaded Config.reference).setSeq 0xFF)) =
    some (longBytes.map some) := by decide

/-- G-L4: DST_SHORT is not read. -/
theorem test_genLong_ignores_dstShort :
    statusAfter (exec .genLong ((loaded Config.reference).setDstShort (Reg.unspecified 2))) =
      some (0x00, 0x00, false) := by decide

/-- D-B2: no check without VALIDATE_FC. -/
theorem test_decBlink_no_check :
    (after (exec .decBlink (holding [0x00, 0x00, 0x11, 0x22, 0x33, 0x44, 0x55, 0x66, 0x77, 0x88, 0x99, 0xAA]
      State.reset))).map (fun t => (t.outLong.bytes, t.outShort.bytes)) =
      some (some #v[0x88, 0x77, 0x66, 0x55, 0x44, 0x33, 0x22, 0x11], some #v[0xAA, 0x99]) := by decide

/-- D-B3: the same with VALIDATE_FC. -/
theorem test_decBlink_mismatch :
    statusAfter (exec .decBlink (holding [0x00, 0x00, 0x11, 0x22, 0x33, 0x44, 0x55, 0x66, 0x77, 0x88, 0x99, 0xAA]
      (State.resetWith (config 23 23 true)))) = some (0x03, 0x05, false) := by decide

/-- D-S2: only FB[7..8] is read. -/
theorem test_decShort_reads_two :
    (after (exec .decShort (State.reset.setFb [(7, 0x34), (8, 0x12)]))).map (fun t => (t.outShort.bytes, t.outLong.bytes)) =
      some (some #v[0x12, 0x34], none) := by decide

/-- D-S4: with VALIDATE_FC, FB[0..1] are read too. -/
theorem test_decShort_unwritten :
    statusAfter (exec .decShort ((State.resetWith (config 23 23 true)).setFb [(7, 0x34), (8, 0x12)])) =
      some (0x00, 0x00, true) := by decide

/-- D-L1. -/
theorem test_decLong :
    (after (exec .decLong (holding longBytes State.reset))).map (fun t => (t.outShort.bytes, t.outLong.bytes)) =
      some (some #v[0x12, 0x34], some #v[0x11, 0x12, 0x13, 0x14, 0x15, 0x16, 0x17, 0x18]) := by decide

/-- D-L4: the buffer check comes before the frame-control check. -/
theorem test_decLong_small :
    statusAfter (exec .decLong (holding [0x00, 0x00] (State.resetWith (config 22 22 true)))) =
      some (0x02, 0x07, false) := by decide

/-! ### The host's port -/

/-- X5: an illegal byte is told before the buffer's size. -/
theorem test_illegal_first :
    statusAfter (step ((State.resetWith (config 5 5 false)).setPending [.write 0x0000 0x81])) =
      some (0x01, 0x81, false) := by decide

/-- X6: a halted block ignores an illegal byte. -/
theorem test_halted_ignores :
    statusAfter (step { State.reset with errCause := 0x02, errCmd := 0x03, pending := [.write 0x0000 0x09] }) =
      some (0x02, 0x03, false) := by decide

/-- X7: operand writes work while halted. -/
theorem test_halted_write :
    (after (step { State.reset with errCause := 0x02, pending := [.write 0x0004 0x55] })).map (fun t => t.srcShort[0].read) =
      some (some 0x55) := by decide

/-- X9, X10, X11, X12: refused accesses. -/
theorem test_refused :
    refusal (step (State.reset.setPending [.read 0x0000])) = some (.readOfCommandPort 0x0000) ∧
    refusal (step (State.reset.setPending [.write 0x0018 0x00])) = some (.writeToReadOnly 0x0018) ∧
    refusal (step (State.reset.setPending [.read 0x0003])) = some (.reservedAddress 0x0003) ∧
    refusal (step (State.reset.setPending [.read 0x0117])) = some (.reservedAddress 0x0117) := by decide

/-- The ends of the frame buffer's window (R43). -/
theorem test_map_edges : hostMap Config.reference 0x0116 = some (.fb 22) ∧ hostMap Config.reference 0x0100 = some (.fb 0) ∧
    hostMap Config.reference 0x00FF = none ∧ hostMap (config 65280 0 false) 0xFFFF = some (.fb 65279) := by decide

/-- X13. -/
theorem test_read_errCause : (after (step (State.reset.setPending [.read 0x0001]))).map State.answers =
    some [{ addr := 0x0001, data := 0x00 }] := by decide

/-- Log entry 1: with no transaction pending, the block does nothing. -/
theorem test_idle : after (step State.reset) = some State.reset := by decide

/-- R71: the addresses of LD_DST_SHORT. -/
theorem test_pseudo : (Line.ldDstShort #v[0x56, 0x78]).expand = [.write 0x0006 0x56, .write 0x0007 0x78] := by decide

/-- The last byte of the address space is 0xFFFF, offset 0xFEFF of the FB window; a line that goes past it is refused. -/
theorem test_assemble_at_the_top :
    assemble [.ldFb 0xFEFE [0x01, 0x02]] = some [.write 0xFFFE 0x01, .write 0xFFFF 0x02] ∧
    assemble [.rdFb 0xFEFF 1] = some [.read 0xFFFF] ∧
    assemble [.mnemonic .genBlink, .ldFb 0xFEFF [0x01, 0x02]] = none ∧ assemble [.rdFb 0xFF00 1] = none := by decide

/-- The word placed by `withFetchWord` runs at once. -/
theorem test_withFetchWord : statusAfter (step (State.reset.withFetchWord 8 1)) = some (0x00, 0x00, true) := by decide

/-! ### Witnesses for the statements' hypotheses -/

theorem witness_CommandByteFields : ((0x08 : Byte).extractLsb' 3 5 ≠ 0) ∧ ((0x04 : Byte).extractLsb' 0 2 = 0) ∧
    ((0x07 : Byte).extractLsb' 3 5 = 0 ∧ (0x07 : Byte).extractLsb' 0 2 ≠ 0) := by decide

theorem witness_IllegalByteRaisesIllegalCommand :
    (State.reset.setPending [.write 0x0000 0x08]).errCause = 0x00 ∧ 0x08 ≤ (0x08 : Byte).toNat ∧
    ((0x07 : Byte) ≠ 0x00 ∧ (0x07 : Byte) ≠ 0x04 ∧ (0x07 : Byte).toNat < 0x08) := by decide

theorem witness_StepRunsTheDecodedCommand :
    (State.reset.setPending [.write 0x0000 0x07]).pending = .write 0x0000 0x07 :: [] ∧
    decode [0x07] = .ok (.decLong, []) ∧ decodeTableWord 8 1 = some .genBlink := ⟨rfl, rfl, rfl⟩

theorem witness_ReversalByIndexAndInvolution : rev (#v[1, 2] : Bytes 2) = rev #v[1, 2] := rfl

theorem witness_GenBlink_small : (loaded (config 11 11 false)).errCause = 0x00 ∧
    (loaded (config 11 11 false)).cfg.fbLen < 12 := by decide

theorem witness_GenBlink_unwritten : (State.resetWith (config 12 12 false)).errCause = 0x00 ∧
    12 ≤ (State.resetWith (config 12 12 false)).cfg.fbLen ∧
    ∃ k : Fin 8, (State.resetWith (config 12 12 false)).srcLong[k].unwritten = true := by decide

theorem witness_GenBlink_completes : (loaded (config 12 12 false)).errCause = 0x00 ∧
    12 ≤ (loaded (config 12 12 false)).cfg.fbLen ∧
    (loaded (config 12 12 false)).srcLong = Reg.ofBytes #v[0x11, 0x12, 0x13, 0x14, 0x15, 0x16, 0x17, 0x18] ∧
    (loaded (config 12 12 false)).srcShort = Reg.ofBytes #v[0x12, 0x34] := by decide

theorem witness_GenShort_small : (loaded (config 8 8 false)).errCause = 0x00 ∧
    (loaded (config 8 8 false)).cfg.fbLen < 9 := by decide

theorem witness_GenShort_unwritten : (State.resetWith (config 9 9 false)).errCause = 0x00 ∧
    9 ≤ (State.resetWith (config 9 9 false)).cfg.fbLen ∧
    ∃ k : Fin 2, (State.resetWith (config 9 9 false)).dstShort[k].unwritten = true := by decide

theorem witness_GenShort_completes : (loaded (config 9 100 false)).errCause = 0x00 ∧
    9 ≤ (loaded (config 9 100 false)).cfg.fbLen ∧
    (loaded (config 9 100 false)).dstShort = Reg.ofBytes #v[0x56, 0x78] ∧
    (loaded (config 9 100 false)).srcShort = Reg.ofBytes #v[0x12, 0x34] := by decide

theorem witness_GenShort_fill : 9 ≤ 9 ∧ 9 < min (config 10 10 false).zfLen (config 10 10 false).fbLen ∧
    min (config 10 9 false).zfLen (config 10 9 false).fbLen ≤ 9 := by decide

theorem witness_GenLong_small : (loaded (config 22 22 false)).errCause = 0x00 ∧
    (loaded (config 22 22 false)).cfg.fbLen < 23 := by decide

theorem witness_GenLong_unwritten : State.reset.errCause = 0x00 ∧ 23 ≤ State.reset.cfg.fbLen ∧
    ∃ k : Fin 8, State.reset.dstLong[k].unwritten = true := by decide

theorem witness_GenLong_completes : (loaded Config.reference).errCause = 0x00 ∧
    23 ≤ (loaded Config.reference).cfg.fbLen ∧
    (loaded Config.reference).dstLong = Reg.ofBytes #v[0x21, 0x22, 0x23, 0x24, 0x25, 0x26, 0x27, 0x28] ∧
    (loaded Config.reference).srcLong = Reg.ofBytes #v[0x11, 0x12, 0x13, 0x14, 0x15, 0x16, 0x17, 0x18] ∧
    (loaded Config.reference).srcShort = Reg.ofBytes #v[0x12, 0x34] := by decide

theorem witness_GenerateCommandsFrame :
    Instr.genLong.isDecode = false ∧ ∃ t, exec .genLong (loaded Config.reference) = .next t := ⟨rfl, _, rfl⟩

theorem witness_DecBlink_small : (State.resetWith (config 11 11 false)).errCause = 0x00 ∧
    (State.resetWith (config 11 11 false)).cfg.fbLen < 12 := by decide

theorem witness_DecBlink_unwritten : (State.resetWith (config 12 12 true)).errCause = 0x00 ∧
    12 ≤ (State.resetWith (config 12 12 true)).cfg.fbLen ∧ (State.resetWith (config 12 12 true)).fb.read 11 = none ∧
    (State.resetWith (config 12 12 true)).cfg.validateFc = true ∧
    (State.resetWith (config 12 12 true)).fb.read 0 = none := by decide

/-- The frame of D-B1 in FB meets the reads; 0xC5 is FC_BLINK there, so both the match and (with 0x00 first) the mismatch
clause have a state. -/
theorem witness_DecBlink_completes :
    12 ≤ (holding blinkBytes (State.resetWith (config 12 12 true))).cfg.fbLen ∧
    (∀ k : Fin 8, (holding blinkBytes (State.resetWith (config 12 12 true))).fb.read (9 - k.val) =
      some (#v[1, 2, 3, 4, 5, 6, 7, 8] : Bytes 8)[k]) ∧
    (holding blinkBytes (State.resetWith (config 12 12 true))).fb.read 11 = some 0xAB ∧
    (holding blinkBytes (State.resetWith (config 12 12 true))).fb.read 10 = some 0xCD ∧
    (holding blinkBytes (State.resetWith (config 12 12 true))).fb.read 0 = some (config 12 12 true).fcBlink ∧
    (0x00 : Byte) ≠ (config 12 12 true).fcBlink := by decide

/-- The mismatch clause of DEC_BLINK. -/
theorem witness_DecBlink_mismatch :
    (holding (0x00 :: blinkBytes.tail) (State.resetWith (config 12 12 true))).fb.read 0 = some 0x00 ∧
    (∀ k : Fin 8, (holding (0x00 :: blinkBytes.tail) (State.resetWith (config 12 12 true))).fb.read (9 - k.val) =
      some (#v[1, 2, 3, 4, 5, 6, 7, 8] : Bytes 8)[k]) := by decide

theorem witness_DecShort_small : (State.resetWith (config 8 8 false)).errCause = 0x00 ∧
    (State.resetWith (config 8 8 false)).cfg.fbLen < 9 := by decide

theorem witness_DecShort_unwritten : (State.resetWith (config 9 9 true)).errCause = 0x00 ∧
    9 ≤ (State.resetWith (config 9 9 true)).cfg.fbLen ∧ (State.resetWith (config 9 9 true)).fb.read 7 = none ∧
    (State.resetWith (config 9 9 true)).cfg.validateFc = true ∧
    (State.resetWith (config 9 9 true)).fb.read 1 = none := by decide

theorem witness_DecShort_completes :
    (holding shortBytes (State.resetWith (config 9 9 true))).errCause = 0x00 ∧
    9 ≤ (holding shortBytes (State.resetWith (config 9 9 true))).cfg.fbLen ∧
    (holding shortBytes (State.resetWith (config 9 9 true))).fb.read 8 = some 0x12 ∧
    (holding shortBytes (State.resetWith (config 9 9 true))).fb.read 7 = some 0x34 ∧
    (holding shortBytes (State.resetWith (config 9 9 true))).fb.read 0 = some (config 9 9 true).fc1 ∧
    (holding shortBytes (State.resetWith (config 9 9 true))).fb.read 1 = some (config 9 9 true).fc2Short := by decide

/-- D-S3: a long-MAC second frame-control byte. -/
theorem witness_DecShort_mismatch :
    (holding [0x41, 0x8C, 5, 0xCA, 0xDE, 0x78, 0x56, 0x34, 0x12] (State.resetWith (config 9 9 true))).fb.read 1 =
      some 0x8C ∧
    (0x8C : Byte) ≠ (config 9 9 true).fc2Short := by decide

theorem witness_DecLong_small : (State.resetWith (config 22 22 false)).errCause = 0x00 ∧
    (State.resetWith (config 22 22 false)).cfg.fbLen < 23 := by decide

theorem witness_DecLong_unwritten : (State.resetWith (config 23 23 true)).errCause = 0x00 ∧
    23 ≤ (State.resetWith (config 23 23 true)).cfg.fbLen ∧ (State.resetWith (config 23 23 true)).fb.read 22 = none ∧
    (State.resetWith (config 23 23 true)).cfg.validateFc = true ∧
    (State.resetWith (config 23 23 true)).fb.read 0 = none := by decide

theorem witness_DecLong_completes :
    (holding longBytes (State.resetWith (config 23 23 true))).errCause = 0x00 ∧
    23 ≤ (holding longBytes (State.resetWith (config 23 23 true))).cfg.fbLen ∧
    (holding longBytes (State.resetWith (config 23 23 true))).fb.read 22 = some 0x12 ∧
    (holding longBytes (State.resetWith (config 23 23 true))).fb.read 21 = some 0x34 ∧
    (∀ k : Fin 8, (holding longBytes (State.resetWith (config 23 23 true))).fb.read (20 - k.val) =
      some (#v[0x11, 0x12, 0x13, 0x14, 0x15, 0x16, 0x17, 0x18] : Bytes 8)[k]) ∧
    (holding longBytes (State.resetWith (config 23 23 true))).fb.read 0 = some (config 23 23 true).fc1 ∧
    (holding longBytes (State.resetWith (config 23 23 true))).fb.read 1 = some (config 23 23 true).fc2Long := by decide

/-- D-L2: FB[1] = 0x88 in the long frame's place. -/
theorem witness_DecLong_mismatch :
    (holding (0x41 :: 0x88 :: longBytes.drop 2) (State.resetWith (config 23 23 true))).fb.read 1 = some 0x88 ∧
    (∀ k : Fin 8, (holding (0x41 :: 0x88 :: longBytes.drop 2) (State.resetWith (config 23 23 true))).fb.read
      (20 - k.val) = some (#v[0x11, 0x12, 0x13, 0x14, 0x15, 0x16, 0x17, 0x18] : Bytes 8)[k]) ∧
    (0x88 : Byte) ≠ (config 23 23 true).fc2Long := by decide

theorem witness_DecodeCommandsFrame :
    Instr.decShort.isDecode = true ∧ ∃ t, exec .decShort (holding shortBytes State.reset) = .next t := ⟨rfl, _, rfl⟩

/-- Two buffers alike at FB[7..8] only. -/
theorem witness_DecodeSeesOnlyItsOffsets : (holding shortBytes State.reset).cfg.validateFc = false ∧
    Memory.read [(7, 0x34), (8, 0x12)] 7 = (holding shortBytes State.reset).fb.read 7 ∧
    Memory.read [(7, 0x34), (8, 0x12)] 8 = (holding shortBytes State.reset).fb.read 8 := by decide

/-- The generate of each round trip has a next state, and that state itself serves as the one the decode starts from. -/
theorem witness_DecodeAfterGenerateRecovers :
    (loaded Config.reference).srcShort = Reg.ofBytes #v[0x12, 0x34] ∧
    (∃ t, exec .genBlink (loaded Config.reference) = .next t ∧ t.errCause = 0x00) ∧
    (∃ t, exec .genShort (loaded Config.reference) = .next t ∧ t.errCause = 0x00) ∧
    (∃ t, exec .genLong (loaded Config.reference) = .next t ∧ t.errCause = 0x00) :=
  ⟨by decide, ⟨_, rfl, rfl⟩, ⟨_, rfl, rfl⟩, ⟨_, rfl, rfl⟩⟩

theorem witness_HaltedBlockIgnoresCommands :
    { State.reset with errCause := 0x02, pending := [.write 0x0000 0x01] }.errCause ≠ 0x00 ∧
    { State.reset with errCause := 0x02, pending := [.read 0x0001] }.pending.head? ≠ some .reset ∧
    ∃ t, step { State.reset with errCause := 0x02, pending := [.read 0x0001] } = .next t :=
  ⟨by decide, by decide, _, rfl⟩

theorem witness_ShortBufferRaisesBufferTooSmall :
    (State.resetWith (config 0 0 false)).errCause = 0x00 ∧ (config 0 0 false).fbLen < bytesNeeded .decShort ∧
    23 ≤ State.reset.cfg.fbLen ∧ ∃ t, exec .decLong State.reset = .next t := ⟨rfl, by decide, by decide, _, rfl⟩

theorem witness_FaultsArePrecise :
    (after (step (State.reset.setPending [.write 0x0000 0x00]))).map State.errCause = some 0x01 := by decide

/-- The clauses of R117 in order, each on a block whose FB is exactly long enough, or one byte short. -/
theorem witness_CommandChecksInOrder :
    statusAfter (step ((loaded (config 8 8 true)).setPending [.write 0x0000 0x06])) = some (0x02, 0x06, false) ∧
    statusAfter (step ((loaded (config 9 9 true)).setPending [.write 0x0000 0x06])) = some (0x00, 0x00, true) ∧
    statusAfter (step ((holding (List.replicate 9 0) (loaded (config 9 9 true))).setPending [.write 0x0000 0x06])) =
      some (0x03, 0x06, false) ∧
    statusAfter (step ((holding shortBytes (loaded (config 9 9 true))).setPending [.write 0x0000 0x06])) =
      some (0x00, 0x00, false) := by decide

theorem witness_OnlyCommandsRaiseFaults :
    (State.reset.setPending [.write 0x0000 0x04]).errCause = 0x00 ∧
    (after (step (State.reset.setPending [.write 0x0000 0x04]))).map State.errCause = some 0x01 := by decide

theorem witness_UnwrittenReadMarkIsPermanent :
    (after (step { State.reset with unwrittenRead := true, pending := [.reset] })).map State.unwrittenRead = some true ∧
    (after (step (State.reset.setPending [.read 0x0100]))).map State.unwrittenRead = some true := by decide

/-- Two states that differ only in the value under an unwritten mark. -/
theorem witness_UnwrittenValuesDoNotMatter :
    State.reset.sameKnown (State.reset.setSrcShort (Vector.replicate 2 { value := 0x5A, unwritten := true })) = true ∧
    State.reset ≠ State.reset.setSrcShort (Vector.replicate 2 { value := 0x5A, unwritten := true }) := by decide

theorem witness_SeqChangesOnlyByIncOrReset :
    ((loaded Config.reference).setPending [.write 0x0000 0x02]).completingGenerate.isSome = true ∧
    ((loaded Config.reference).setPending [.write 0x0000 0x04]).completingGenerate.isSome = false ∧
    (after (step ((loaded Config.reference).setPending [.write 0x0000 0x02]))).map State.seq = some 0x01 ∧
    (after (step { loaded Config.reference with seq := 0x9A, pending := [.reset] })).map State.seq = some 0x00 := by decide

/-- One completed generate, with another ready behind it. -/
theorem witness_SeqCountsCompletedGenerates :
    let s := (loaded Config.reference).setPending [.write 0x0000 0x02, .write 0x0000 0x03]
    Transaction.reset ∉ s.pending.take 1 ∧ generatesCompleted 1 s = 1 ∧
    (∃ t, Host.Core.run Sys2Proof.core 1 s = .next t ∧ t.completingGenerate = some .genLong) :=
  ⟨by decide, by decide, _, rfl, by decide⟩

/-- A read that is answered, a write that is stored and an access that is refused. -/
theorem witness_SeqIsHiddenFromTheHost :
    (after (step (State.reset.setPending [.read 0x0001]))).isSome = true ∧
    (after (step (State.reset.setPending [.write 0x0004 0x01]))).isSome = true ∧
    (refusal (step (State.reset.setPending [.read 0x0003]))).isSome = true ∧
    (Transaction.write 0x0004 0x01 ≠ .reset) ∧ ∀ c, Transaction.write 0x0004 0x01 ≠ .write 0x0000 c :=
  ⟨by decide, by decide, by decide, by decide, fun c h => by cases h⟩

theorem witness_ResetTransactionResets :
    { loaded Config.reference with errCause := 0x03, seq := 0x9A, pending := [.reset] }.pending = .reset :: [] := rfl

theorem witness_ParametersNeverChange : ∃ t, step (State.reset.setPending [.reset]) = .next t := ⟨_, rfl⟩

theorem witness_EveryStepKeepsTheInvariant :
    State.inv ((loaded Config.reference).setPending [.write 0x0116 0x01]) = true ∧
    (after (step ((loaded Config.reference).setPending [.write 0x0116 0x01]))).map State.fb = some [(22, 0x01)] := by decide

theorem witness_ResetHasTheInvariant : (config 65280 0 true).WellFormed = true := by decide

/-- The first and last address of each read-write range. -/
theorem witness_HostWriteStoresOneByte :
    (0x0005 : HostAddr).toNat = 0x0004 + (1 : Fin 2).val ∧ (0x0006 : HostAddr).toNat = 0x0006 + (0 : Fin 2).val ∧
    (0x000F : HostAddr).toNat = 0x0008 + (7 : Fin 8).val ∧ (0x0017 : HostAddr).toNat = 0x0010 + (7 : Fin 8).val ∧
    22 < State.reset.cfg.fbLen ∧ (0x0116 : HostAddr).toNat = 0x0100 + 22 ∧
    (State.reset.setPending [.write 0x0005 0x01]).pending = .write 0x0005 0x01 :: [] := by decide

/-- A read with a byte to answer, and one without. -/
theorem witness_HostReadAnswersTheByte :
    (0x0027 : HostAddr).toNat = 0x0020 + (7 : Fin 8).val ∧
    State.reset.outLong[(7 : Fin 8)].read = none ∧
    (0x0019 : HostAddr).toNat = 0x0018 + (1 : Fin 2).val ∧
    (loaded Config.reference).srcShort[(1 : Fin 2)].read = some 0x34 ∧
    (State.reset.setPending [.read 0x0027]).pending = .read 0x0027 :: [] := by decide

theorem witness_HostReadsAreIdempotent :
    (after (step ((loaded Config.reference).setPending [.read 0x0004, .read 0x0004]))).map State.answers =
      some [{ addr := 0x0004, data := 0x12 }] := by decide

/-- The ends of the reserved and read-only ranges. -/
theorem witness_ForbiddenAccessesAreRefused :
    (0x0003 : HostAddr).toNat = 0x0003 ∧ (0x001A : HostAddr).toNat = 0x001A ∧ (0x001F : HostAddr).toNat = 0x001F ∧
    (0x0028 : HostAddr).toNat = 0x0028 ∧ (0x00FF : HostAddr).toNat = 0x00FF ∧
    0x0100 + State.reset.cfg.fbLen ≤ (0x0117 : HostAddr).toNat ∧ (0x0020 : HostAddr).toNat = 0x0020 ∧
    refusal (step (State.reset.setPending [.write 0x001F 0x00])) = some (.reservedAddress 0x001F) ∧
    refusal (step (State.reset.setPending [.write 0x0020 0x00])) = some (.writeToReadOnly 0x0020) := by decide

/-- A load of two bytes at the end of FB, and of the operand registers. -/
theorem witness_LoadPseudoInstructionsLoad :
    State.reset.cfg.WellFormed = true ∧ 21 + [0x01, 0x02].length ≤ State.reset.cfg.fbLen ∧
    (Line.ldFb 21 [0x01, 0x02]).expand = [.write 0x0115 0x01, .write 0x0116 0x02] ∧
    (Line.ldSrcLong #v[1, 2, 3, 4, 5, 6, 7, 8]).expand.length = 8 := by decide

end Sys2Proof.Tests
end

/-! PROOFS. The family 00_scope.md: the integer an address denotes and its wire form (R13), and the frame buffer's read-back
(R11). -/

namespace Sys2Proof.Machine

/-- The last byte of a big-endian list is its least significant one. -/
@[simp] theorem readBigEndian_concat (bs : List Byte) (b : Byte) :
    readBigEndian (bs ++ [b]) = readBigEndian bs * 256 + b.toNat := by
  simp [readBigEndian]

/-- Reading the reversed list from its other end gives the same integer. -/
theorem readLittleEndian_reverse (bs : List Byte) : readLittleEndian bs.reverse = readBigEndian bs := by
  induction bs using List.reverseRecOn with
  | nil => rfl
  | append_singleton bs b ih =>
    rw [List.reverse_concat, readLittleEndian, ih, readBigEndian_concat]
    omega

/-- The big-endian reading is R13's sum: a byte appended shifts every earlier byte up one place. -/
theorem readBigEndian_ofFn {n : Nat} (f : Fin n → Byte) :
    readBigEndian (List.ofFn f) = ∑ k : Fin n, (f k).toNat * 256 ^ (n - 1 - k.val) := by
  induction n with
  | zero => rfl
  | succ n ih =>
    have shift (k : Fin n) : n - k.val = n - 1 - k.val + 1 := by omega
    rw [List.ofFn_succ', List.concat_eq_append, readBigEndian_concat, ih, Fin.sum_univ_castSucc, Finset.sum_mul]
    simp [shift, pow_succ, mul_assoc]

/-- REV_n is list reversal (R100). -/
theorem rev_toList {n : Nat} (v : Bytes n) : (rev v).toList = v.toList.reverse := by
  refine List.ext_getElem (by simp) fun k hk _ => ?_
  simp

/-- Settles O7: R13's sum by induction on the length, the wire reading by reversing the list. -/
theorem wireOrderIsLittleEndian : Obligations.WireOrderIsLittleEndian := by
  intro n v
  have toList_eq : v.toList = List.ofFn fun k : Fin n => v[k] := List.ext_getElem (by simp) (by simp)
  constructor
  · rw [addressValue, toList_eq, readBigEndian_ofFn]
  · rw [addressValue, rev_toList, readLittleEndian_reverse]

/-- Settles O9: the read-back of each byte gives `MemRead`'s answer, and the offsets outside are the write's frame. -/
theorem memWriteThenMemRead : Obligations.MemWriteThenMemRead := by
  intro m i n v
  have readBack (k : Fin n) : (m.writeBytes i v.toList).read (i + k.val) = some v[k] :=
    Memory.read_writeBytes_inside v.toList m i k (by simp)
  have frame (j : Nat) (h : j < i ∨ i + n ≤ j) : (m.writeBytes i v.toList).read j = m.read j :=
    Memory.read_writeBytes_outside v.toList m i j (by simpa using h)
  exact ⟨readBack, frame, Memory.readBytes_eq_some.2 readBack⟩

end Sys2Proof.Machine

/-! PROOFS. The family 10_state.md: the machine's invariant (R6, R27, R31, R32), the hidden sequence counter (R35), the
unwritten marks (R36), reset (R37), the parameters (R39), and the command a step runs (R30, R50). -/

namespace Sys2Proof.Machine

/-! ### The invariant -/

/-- The invariant's four parts: it looks at the configuration, FB and the status registers only. -/
theorem State.inv_iff {s : State} :
    s.inv = true ↔ s.cfg.WellFormed = true ∧ s.fb.wf = true ∧ s.fb.below s.cfg.fbLen = true ∧ s.errorLegal = true := by
  simp only [State.inv, Bool.and_eq_true, and_assoc]
  rfl

/-- Writing the status registers keeps the invariant when the new contents are legal. -/
theorem State.inv_setError {s : State} {cause cmd : Byte} (hi : s.inv = true)
    (hlegal : (s.setError cause cmd).errorLegal = true) : (s.setError cause cmd).inv = true := by
  obtain ⟨hcfg, hwf, hbelow, -⟩ := State.inv_iff.1 hi
  exact State.inv_iff.2 ⟨hcfg, hwf, hbelow, hlegal⟩

/-- Replacing FB keeps the invariant when the new contents are canonical and within FB_LEN. -/
theorem State.inv_setFb {s : State} {m : Memory} (hi : s.inv = true) (hwf : s.fb.wf = true → m.wf = true)
    (hbelow : s.fb.below s.cfg.fbLen = true → m.below s.cfg.fbLen = true) : (s.setFb m).inv = true := by
  obtain ⟨hcfg, hw, hb, herr⟩ := State.inv_iff.1 hi
  exact State.inv_iff.2 ⟨hcfg, hwf hw, hbelow hb, herr⟩

/-- ILLEGAL_COMMAND records a byte that is no command (R112). -/
theorem errorLegal_illegalCommand {s : State} {c : Byte} (h : ∀ i, decodeByte c ≠ .ok i) :
    (raiseFault .illegalCommand c s).errorLegal = true := by
  rcases hd : decodeByte c with e | i
  · simp [State.errorLegal, raiseFault, FaultCause.code, hd]
  · exact absurd hd (h i)

/-- BUFFER_TOO_SMALL records a command longer than FB (R113). -/
theorem errorLegal_bufferTooSmall {s : State} {i : Instr} (h : s.cfg.fbLen < bytesNeeded i) :
    (raiseFault .bufferTooSmall (encodeByte i) s).errorLegal = true := by
  simp [State.errorLegal, raiseFault, FaultCause.code, h]

/-- UNEXPECTED_FRAME_TYPE records a decode command whose frame fits, on a block that validates (R114). -/
theorem errorLegal_unexpectedFrameType {s : State} {i : Instr} (hd : i.isDecode = true)
    (hv : s.cfg.validateFc = true) (hN : bytesNeeded i ≤ s.cfg.fbLen) :
    (raiseFault .unexpectedFrameType (encodeByte i) s).errorLegal = true := by
  simp [State.errorLegal, raiseFault, FaultCause.code, hd, hv, hN]

/-- The frame-control check fails only on a block that validates (R69). -/
theorem validateFc_of_mismatch {i : Instr} {s : State} (h : frameControlMatches i s = some false) :
    s.cfg.validateFc = true := by
  by_contra hv
  simp [frameControlMatches, hv] at h

/-- The state after reset has the invariant: FB is empty and no fault is recorded (R37). -/
theorem inv_resetWith {c : Config} (hc : c.WellFormed = true) : (State.resetWith c).inv = true :=
  State.inv_iff.2 ⟨hc, rfl, rfl, rfl⟩

/-- Every case of a command keeps the invariant. -/
theorem CommandCase.keeps_inv {i : Instr} {s t : State} (h : CommandCase i s t) (hi : s.inv = true) :
    t.inv = true := by
  cases h with
  | ignored => exact hi
  | tooSmall _ small => exact State.inv_setError hi (errorLegal_bufferTooSmall small)
  | unwritten => exact hi
  | mismatch _ fits isDecode _ differs =>
    exact State.inv_setError hi (errorLegal_unexpectedFrameType isDecode (validateFc_of_mismatch differs) fits)
  | generated _ _ _ _ m frame => exact State.inv_setFb hi frame.wf frame.below
  | decoded => exact hi

/-- Settles O35: over the cases of a step. Only a fault, a generated frame, a host write to FB and reset touch what the
invariant looks at. -/
theorem everyStepKeepsTheInvariant : Obligations.EveryStepKeepsTheInvariant := by
  intro s t hi h
  have taken (rest : List Transaction) : (s.setPending rest).inv = true := hi
  cases step_case h with
  | idle => exact hi
  | reset => exact inv_resetWith (State.inv_iff.1 hi).1
  | command _ _ rest _ _ _ result => exact result.keeps_inv (taken rest)
  | illegal _ rest _ error => exact State.inv_setError (taken rest) (errorLegal_illegalCommand error)
  | wroteFb _ v rest _ _ i inside =>
    exact State.inv_setFb (taken rest) (Memory.wf_write · i v) (Memory.below_write · inside)
  | _ => exact hi

/-- Settles O36: `inv_resetWith`, with FB_LEN 23 for `State.reset`. -/
theorem resetHasTheInvariant : Obligations.ResetHasTheInvariant :=
  ⟨fun _ hc => inv_resetWith hc, inv_resetWith (by decide)⟩

/-! ### The sequence counter and the host -/

/-- An outcome with SEQ set to `v` in its next state. -/
def outcomeSetSeq (v : Byte) : Host.Outcome State Fault Refusal → Host.Outcome State Fault Refusal
  | .next t => .next (t.setSeq v)
  | .fault e => .fault e
  | .refused r => .refused r

theorem answerRead_setSeq (a : HostAddr) (x : Option Byte) (s : State) (v : Byte) :
    answerRead a x (s.setSeq v) = outcomeSetSeq v (answerRead a x s) := by
  cases x <;> rfl

/-- A host read does the same whatever SEQ is (R35, R45). -/
theorem hostRead_setSeq (a : HostAddr) (s : State) (v : Byte) :
    hostRead a (s.setSeq v) = outcomeSetSeq v (hostRead a s) := by
  simp only [hostRead, State.setSeq_cfg]
  rcases hostMap s.cfg a with _ | loc
  · rfl
  · cases loc with
    | cmd => rfl
    | _ => exact answerRead_setSeq ..

/-- A host write that is none to CMD does the same whatever SEQ is (R35, R44). -/
theorem hostWrite_setSeq {a : HostAddr} (ha : a ≠ cmdAddr) (b : Byte) (s : State) (v : Byte) :
    hostWrite a b (s.setSeq v) = outcomeSetSeq v (hostWrite a b s) := by
  simp only [hostWrite, State.setSeq_cfg]
  rcases hm : hostMap s.cfg a with _ | loc
  · rfl
  · cases loc with
    | cmd => exact absurd (hostMap_eq_cmd.1 hm) ha
    | _ => rfl

/-- A transaction that is no reset and no write to CMD does the same whatever SEQ is (R35). -/
theorem transact_setSeq {tr : Transaction} (hreset : tr ≠ .reset) (hcmd : ∀ c, tr ≠ .write cmdAddr c) (s : State)
    (v : Byte) : transact tr (s.setSeq v) = outcomeSetSeq v (transact tr s) := by
  cases tr with
  | write a b => exact hostWrite_setSeq (fun ha => hcmd b (by rw [ha])) b s v
  | read a => exact hostRead_setSeq a s v
  | reset => exact absurd rfl hreset

/-- A step with a transaction pending performs it (R54). -/
theorem step_of_pending {s : State} {tr : Transaction} {rest : List Transaction} (h : s.pending = tr :: rest) :
    step s = transact tr (s.setPending rest) := by
  simp [step, nextEvent, h]

/-- A step whose transaction is no reset and no write to CMD does the same whatever SEQ is (R35). -/
theorem step_setSeq {s : State} {tr : Transaction} {rest : List Transaction} (hp : s.pending = tr :: rest)
    (hreset : tr ≠ .reset) (hcmd : ∀ c, tr ≠ .write cmdAddr c) (v : Byte) :
    step (s.setSeq v) = outcomeSetSeq v (step s) := by
  rw [step_of_pending (s := s.setSeq v) hp, step_of_pending hp]
  exact transact_setSeq hreset hcmd (s.setPending rest) v

/-- Settles O31 by `step_setSeq`; with `v` the SEQ that `s` has, it says that SEQ is kept. -/
theorem seqIsHiddenFromTheHost : Obligations.SeqIsHiddenFromTheHost := by
  intro s tr rest v hp hreset hcmd
  have hidden (w : Byte) : step (s.setSeq w) = outcomeSetSeq w (step s) := step_setSeq hp hreset hcmd w
  refine ⟨fun t ht => ?_, fun r hr => ?_⟩
  · rw [ht] at hidden
    have same : t = t.setSeq s.seq := Host.Outcome.next.inj (ht.symm.trans (hidden s.seq))
    have kept : t.seq = (t.setSeq s.seq).seq := congrArg State.seq same
    exact ⟨kept, hidden v⟩
  · rw [hr] at hidden
    exact hidden v

/-! ### The parameters -/

/-- No case of a command changes the parameters (R39). -/
theorem CommandCase.cfg_eq {i : Instr} {s t : State} (h : CommandCase i s t) : t.cfg = s.cfg := by
  cases h <;> rfl

/-- Settles O34: over the cases of a step. -/
theorem parametersNeverChange : Obligations.ParametersNeverChange := by
  intro s t h
  cases step_case h with
  | command _ _ _ _ _ _ result => exact result.cfg_eq
  | _ => rfl

/-! ### The command a step runs -/

/-- Decoding one byte off a list of one is the byte's decoding (R60). -/
theorem decode_singleton {c : Byte} {i : Instr} : decode [c] = .ok (i, []) ↔ decodeByte c = .ok i := by
  rcases hd : decodeByte c with e | j <;> simp [decode, hd]

/-- A word of eight bits is its low byte's command. -/
theorem decodeTableWord_byte {w : Nat} {i : Instr} :
    decodeTableWord 8 w = some i ↔ decodeByte (BitVec.ofNat 8 w) = .ok i := by
  rcases hd : decodeByte (BitVec.ofNat 8 w) with e | j <;> simp [decodeTableWord, tableBytes, lowBytes, decode, hd]

/-- A write of a command's byte to CMD is that command's meaning (R30, R50). -/
theorem step_of_decodedCommand {s : State} {c : Byte} {i : Instr} {rest : List Transaction}
    (hp : s.pending = .write cmdAddr c :: rest) (hd : decodeByte c = .ok i) :
    step s = exec i (s.setPending rest) := by
  rw [step_of_command hp, issueCommand_of_ok hd]

/-- Settles O5: both clauses are a write of the command's byte to CMD. -/
theorem stepRunsTheDecodedCommand : Obligations.StepRunsTheDecodedCommand := by
  constructor
  · intro s c i rest hp hd
    exact step_of_decodedCommand hp (decode_singleton.1 hd)
  · intro s w i hw
    have placed : (s.withFetchWord 8 w).pending = .write cmdAddr (BitVec.ofNat 8 w) :: s.pending := rfl
    exact step_of_decodedCommand placed (decodeTableWord_byte.1 hw)

/-! ### The unwritten marks -/

/-- A byte is the written byte `v` exactly when it is unmarked and holds `v` (R36). -/
theorem RegByte.eq_written_iff {b : RegByte} {v : Byte} :
    b = RegByte.written v ↔ b.unwritten = false ∧ b.value = v := by
  obtain ⟨w, u⟩ := b
  simp [RegByte.written, and_comm]

/-- A register has the whole value `v` exactly when each byte is unmarked and holds `v`'s (R36). -/
theorem Reg.bytes_eq_some_iff {n : Nat} {r : Reg n} {v : Bytes n} :
    r.bytes = some v ↔ ∀ k : Fin n, r[k].unwritten = false ∧ r[k].value = v[k] := by
  simp only [Reg.bytes_eq_some, ← RegByte.eq_written_iff]
  constructor
  · rintro rfl k
    exact Reg.ofBytes_getElem v k k.isLt
  · exact fun h => Vector.ext fun k hk => by simpa using h ⟨k, hk⟩

/-- Settles O10: the whole reading byte by byte, and one byte's write with its frame. -/
theorem unwrittenMarksGuardRegisters : Obligations.UnwrittenMarksGuardRegisters := by
  intro n r
  refine ⟨fun v => Reg.bytes_eq_some_iff, Reg.bytes_eq_none, fun k j b => ?_⟩
  simp only [Fin.getElem_fin, Reg.setByte_getElem, Fin.ext_iff, eq_comm (a := k.val)]
  rfl

/-! ### The state after reset -/

/-- Every byte of a register no write has reached is marked (R36, R37). -/
theorem Reg.unspecified_unwritten {n : Nat} (k : Fin n) : (Reg.unspecified n)[k].unwritten = true := by
  simp [Reg.unspecified]

/-- Settles O32: the operand and output registers are unspecified, FB is empty and the rest is zero. -/
theorem resetLeavesSpecifiedValues : Obligations.ResetLeavesSpecifiedValues := by
  intro c
  have marked {n : Nat} (k : Fin n) := Reg.unspecified_unwritten k
  exact ⟨rfl, rfl, rfl, fun k => ⟨marked k, marked k, marked k⟩, fun k => ⟨marked k, marked k, marked k⟩,
    Memory.read_nil⟩

end Sys2Proof.Machine

/-! PROOFS. The family 20_memory.md: the host's accesses (R44, R45, R46, R50) through what each location of the map holds
and takes, and the bytes each command reads (R48). -/

namespace Sys2Proof.Machine

/-! ### Host writes -/

/-- The state after a host's write of `v` to a location (R44); none where the map's location is no storage the host may
write: the read-only ones (R46), and CMD, which issues a command instead (R30). -/
def State.storeAt (s : State) (v : Byte) : HostLoc → Option State
  | .srcShort k => some (s.setSrcShort (s.srcShort.setByte k v))
  | .dstShort k => some (s.setDstShort (s.dstShort.setByte k v))
  | .srcLong k => some (s.setSrcLong (s.srcLong.setByte k v))
  | .dstLong k => some (s.setDstLong (s.dstLong.setByte k v))
  | .fb i => some (s.setFb (s.fb.write i v))
  | .cmd | .errCause | .errCmd | .outShort _ | .outLong _ => none

/-- A host write to a read-write location stores the byte there (R44). -/
theorem hostWrite_of_storeAt {s t : State} {a : HostAddr} {v : Byte} {loc : HostLoc} (hm : hostMap s.cfg a = some loc)
    (hs : s.storeAt v loc = some t) : hostWrite a v s = .next t := by
  cases loc with
  | cmd | errCause | errCmd | outShort | outLong => cases hs
  | _ => cases hs; simp only [hostWrite, hm]

/-- A host write to a location that takes none is refused, CMD apart (R46). -/
theorem hostWrite_readOnly {s : State} {a : HostAddr} {v : Byte} {loc : HostLoc} (hm : hostMap s.cfg a = some loc)
    (hs : s.storeAt v loc = none) (hcmd : loc ≠ .cmd) : hostWrite a v s = .refused (.writeToReadOnly a) := by
  cases loc with
  | cmd => exact absurd rfl hcmd
  | errCause | errCmd | outShort | outLong => simp only [hostWrite, hm]
  | _ => cases hs

/-- A step whose transaction writes a read-write location stores the byte there (R44, R54). -/
theorem step_of_store {s t : State} {a : HostAddr} {v : Byte} {rest : List Transaction} {loc : HostLoc}
    (hp : s.pending = .write a v :: rest) (hm : hostMap s.cfg a = some loc)
    (hs : (s.setPending rest).storeAt v loc = some t) : step s = .next t := by
  rw [step_of_write hp, hostWrite_of_storeAt (s := s.setPending rest) hm hs]

/-- Settles O37: `step_of_store` at each read-write range of the map; a write to 0x0000 is a write to CMD. -/
theorem hostWriteStoresOneByte : Obligations.HostWriteStoresOneByte := by
  intro s a v rest hp
  refine ⟨fun k hk => step_of_store hp (hostMap_srcShort k hk) rfl,
    fun k hk => step_of_store hp (hostMap_dstShort k hk) rfl,
    fun k hk => step_of_store hp (hostMap_srcLong k hk) rfl,
    fun k hk => step_of_store hp (hostMap_dstLong k hk) rfl, fun i hi ha => ?_, fun ha => ?_⟩
  · exact ⟨s.fb.write i v, step_of_store hp (hostMap_fb hi ha) rfl, by simp [Memory.read_write],
      fun j hj => by simp [Memory.read_write, hj]⟩
  · obtain rfl : a = cmdAddr := BitVec.eq_of_toNat_eq ha
    exact step_of_command hp

/-! ### Host reads -/

/-- The known byte a location holds for the host to read, none where it is unwritten (R36, R45); the write-only CMD holds
none. -/
def State.byteAt (s : State) : HostLoc → Option Byte
  | .cmd => none
  | .errCause => some s.errCause
  | .errCmd => some s.errCmd
  | .srcShort k => s.srcShort[k].read
  | .dstShort k => s.dstShort[k].read
  | .srcLong k => s.srcLong[k].read
  | .dstLong k => s.dstLong[k].read
  | .outShort k => s.outShort[k].read
  | .outLong k => s.outLong[k].read
  | .fb i => s.fb.read i

/-- A read of a readable location is answered with the byte it holds (R45). -/
theorem hostRead_of_byteAt {s : State} {a : HostAddr} {loc : HostLoc} (hm : hostMap s.cfg a = some loc)
    (hcmd : loc ≠ .cmd) : hostRead a s = answerRead a (s.byteAt loc) s := by
  cases loc with
  | cmd => exact absurd rfl hcmd
  | _ => simp only [hostRead, hm, State.byteAt]

/-- A read that is not refused is of a readable location (R45, R46). -/
theorem readable_of_hostRead {s t : State} {a : HostAddr} (h : hostRead a s = .next t) :
    ∃ loc, hostMap s.cfg a = some loc ∧ loc ≠ .cmd := by
  rcases hm : hostMap s.cfg a with _ | loc
  · simp [hostRead, hm] at h
  · refine ⟨loc, rfl, ?_⟩
    rintro rfl
    simp [hostRead, hm] at h

/-- A location's byte is the block's: neither the transactions to come nor the answers given are in it. -/
@[simp] theorem State.byteAt_setPending (s : State) (ts : List Transaction) (loc : HostLoc) :
    (s.setPending ts).byteAt loc = s.byteAt loc := by
  cases loc <;> rfl

@[simp] theorem State.byteAt_answer (s : State) (r : Answer) (loc : HostLoc) : (s.answer r).byteAt loc = s.byteAt loc := by
  cases loc <;> rfl

/-- A step whose transaction reads a readable location is answered with the byte there (R45, R54). -/
theorem step_of_readable {s : State} {a : HostAddr} {rest : List Transaction} {loc : HostLoc}
    (hp : s.pending = .read a :: rest) (hm : hostMap s.cfg a = some loc) (hcmd : loc ≠ .cmd) :
    step s = answerRead a (s.byteAt loc) (s.setPending rest) := by
  rw [step_of_read hp, hostRead_of_byteAt (s := s.setPending rest) hm hcmd, State.byteAt_setPending]

/-- Settles O38: each readable range of the map names a location, and `step_of_readable` answers with its byte. -/
theorem hostReadAnswersTheByte : Obligations.HostReadAnswersTheByte := by
  intro s a rest x hp hx
  have readable : ∃ loc, hostMap s.cfg a = some loc ∧ loc ≠ .cmd ∧ x = s.byteAt loc := by
    rcases hx with ⟨ha, hx⟩ | ⟨ha, hx⟩ | ⟨k, ha, hx⟩ | ⟨k, ha, hx⟩ | ⟨k, ha, hx⟩ | ⟨k, ha, hx⟩ | ⟨k, ha, hx⟩ |
      ⟨k, ha, hx⟩ | ⟨i, hi, ha, hx⟩
    · exact ⟨_, hostMap_errCause ha, nofun, hx⟩
    · exact ⟨_, hostMap_errCmd ha, nofun, hx⟩
    · exact ⟨_, hostMap_srcShort k ha, nofun, hx⟩
    · exact ⟨_, hostMap_dstShort k ha, nofun, hx⟩
    · exact ⟨_, hostMap_srcLong k ha, nofun, hx⟩
    · exact ⟨_, hostMap_dstLong k ha, nofun, hx⟩
    · exact ⟨_, hostMap_outShort k ha, nofun, hx⟩
    · exact ⟨_, hostMap_outLong k ha, nofun, hx⟩
    · exact ⟨_, hostMap_fb hi ha, nofun, hx⟩
  obtain ⟨loc, hm, hcmd, rfl⟩ := readable
  have answered := step_of_readable hp hm hcmd
  constructor
  · intro b hb
    rw [answered, hb]
    rfl
  · intro hnone
    rw [answered, hnone]
    rfl

/-- Settles O39: the first read's answer is the location's byte, and giving it leaves that byte as it was. -/
theorem hostReadsAreIdempotent : Obligations.HostReadsAreIdempotent := by
  intro s t a b rest hp ht hanswers
  obtain ⟨loc, hm, hcmd⟩ := readable_of_hostRead (step_of_read hp ▸ ht)
  rw [step_of_readable hp hm hcmd] at ht
  rcases hb : s.byteAt loc with _ | b'
  · rw [hb] at ht
    cases ht
    simp [recordUnwrittenRead] at hanswers
  · rw [hb] at ht
    cases ht
    obtain rfl : b' = b := by simpa using hanswers
    rw [step_of_readable (s := (s.setPending _).answer _) rfl hm hcmd, State.byteAt_answer, State.byteAt_setPending, hb]
    simp [answerRead, State.answer, State.setPending]

/-! ### Refused accesses -/

/-- The read-only addresses of the map name locations that take no write, none of them CMD (R43, R46). -/
theorem hostMap_readOnly {c : Config} {a : HostAddr}
    (h : a.toNat = 0x0001 ∨ a.toNat = 0x0002 ∨ a.toNat = 0x0018 ∨ a.toNat = 0x0019 ∨
      (0x0020 ≤ a.toNat ∧ a.toNat ≤ 0x0027)) :
    ∃ loc, hostMap c a = some loc ∧ loc ≠ .cmd ∧ ∀ (s : State) (v : Byte), s.storeAt v loc = none := by
  rcases hostMap_total c a with ⟨-, reserved⟩ | ⟨loc, hm, hat⟩
  · omega
  · refine ⟨loc, hm, ?_⟩
    cases loc with
    | errCause | errCmd | outShort | outLong => exact ⟨nofun, fun _ _ => rfl⟩
    | _ => simp only [HostLoc.At] at hat; omega

/-- Settles O40: a reserved address names nothing, a read-only location takes no write, and CMD answers no read. -/
theorem forbiddenAccessesAreRefused : Obligations.ForbiddenAccessesAreRefused := by
  intro s a v rest
  refine ⟨fun reserved => ⟨fun hp => ?_, fun hp => ?_⟩, fun readOnly hp => ?_, fun ha hp => ?_⟩
  · rw [step_of_write hp, hostWrite, State.setPending_cfg, hostMap_reserved reserved]
  · rw [step_of_read hp, hostRead, State.setPending_cfg, hostMap_reserved reserved]
  · obtain ⟨loc, hm, hcmd, takesNone⟩ := hostMap_readOnly (c := s.cfg) readOnly
    rw [step_of_write hp, hostWrite_readOnly (s := s.setPending rest) hm (takesNone _ v) hcmd]
  · obtain rfl : a = cmdAddr := BitVec.eq_of_toNat_eq ha
    exact step_of_read hp

/-! ### The operands of the commands -/

/-- A register has a whole value exactly when every byte of it is written (R10, R36). -/
theorem Reg.bytes_isSome {n : Nat} {r : Reg n} : r.bytes.isSome = true ↔ ∀ k : Fin n, r[k].unwritten = false := by
  simp [Option.isSome_iff_ne_none, Reg.bytes_eq_none]

/-- Settles O25: a register operand by `Reg.bytes_isSome`, an FB operand by `Memory.readBytes_isSome`. -/
theorem operandsEachCommandReads : Obligations.OperandsEachCommandReads := by
  intro s
  simp only [operandsWritten, Bool.and_eq_true, and_assoc, Reg.bytes_isSome, Memory.readBytes_isSome, Nat.reduceAdd,
    Nat.lt_succ_iff, iff_self, and_self]

end Sys2Proof.Machine

/-! PROOFS. The family 30_encoding.md: the opcode map and the command byte's fields (R60 to R63), illegal bytes (R112), and
the load pseudo-instructions (R71). -/

namespace Sys2Proof.Machine

/-! ### The command byte -/

/-- A byte decodes to a command exactly when it is that command's encoding (R62). -/
theorem decodeByte_eq_ok {c : Byte} {i : Instr} : decodeByte c = .ok i ↔ c = encodeByte i := by
  constructor
  · exact fun h => (encodeByte_of_decodeByte h).symm
  · rintro rfl
    exact decodeByte_encodeByte i

/-- A byte is no command exactly when it decodes to none. -/
theorem exists_decodeByte_eq_error {c : Byte} :
    (∃ e, decodeByte c = .error e) ↔ ¬ ∃ i, decodeByte c = .ok i := by
  rcases decodeByte c with e | i <;> simp

/-- The fields of a command byte: RSV zero and FT a frame type (R61). -/
theorem exists_decodeByte_eq_ok_iff_fields {c : Byte} :
    (∃ i, decodeByte c = .ok i) ↔ rsvField c = 0 ∧ ftField c ≠ 0 := by
  constructor
  · rintro ⟨i, h⟩
    obtain rfl := decodeByte_eq_ok.1 h
    cases i <;> decide
  · rintro ⟨hrsv, hft⟩
    rw [decodeByte, if_neg (not_not.2 hrsv), if_neg hft]
    split_ifs <;> exact ⟨_, rfl⟩

/-- The legal bytes of the opcode map: 0x01 to 0x07 without 0x04 (R62, R63). -/
theorem exists_decodeByte_eq_ok_iff_byte {c : Byte} :
    (∃ i, decodeByte c = .ok i) ↔ c ≠ 0x00 ∧ c ≠ 0x04 ∧ c.toNat < 0x08 := by
  simp only [decodeByte_eq_ok]
  constructor
  · rintro ⟨i, rfl⟩
    cases i <;> decide
  · rintro ⟨h0, h4, h8⟩
    have byte : c = 0x01 ∨ c = 0x02 ∨ c = 0x03 ∨ c = 0x05 ∨ c = 0x06 ∨ c = 0x07 := by bv_omega
    rcases byte with rfl | rfl | rfl | rfl | rfl | rfl
    · exact ⟨.genBlink, rfl⟩
    · exact ⟨.genShort, rfl⟩
    · exact ⟨.genLong, rfl⟩
    · exact ⟨.decBlink, rfl⟩
    · exact ⟨.decShort, rfl⟩
    · exact ⟨.decLong, rfl⟩

/-! ### Streams of commands -/

/-- A stream decodes to a list of commands exactly when its first byte decodes to the first and the rest to the rest. -/
theorem decodeStream_cons_eq_ok {c : Byte} {bytes : List Byte} {cmds : List Instr} :
    decodeStream (c :: bytes) = .ok cmds ↔
      ∃ i is, cmds = i :: is ∧ decodeByte c = .ok i ∧ decodeStream bytes = .ok is := by
  rcases hc : decodeByte c with e | i
  · simp [decodeStream, hc]
  · rcases hs : decodeStream bytes with e | is <;> simp [decodeStream, hc, hs, eq_comm]

/-- The encodings of a non-empty list of commands: the first command's byte, then the rest's (R60). -/
theorem encodeStream_cons (i : Instr) (is : List Instr) : encodeStream (i :: is) = encodeByte i :: encodeStream is := rfl

/-- Settles O1, by induction on the bytes: each byte is one command, and `decodeByte_eq_ok` says which. -/
theorem streamDecodeEncodeAgree : Obligations.StreamDecodeEncodeAgree := by
  intro cmds bytes
  induction bytes generalizing cmds with
  | nil =>
    cases cmds with
    | nil => simp [decodeStream, encodeStream]
    | cons i is => simp [decodeStream, encodeStream_cons]
  | cons c bytes ih =>
    simp only [decodeStream_cons_eq_ok, decodeByte_eq_ok, ih]
    cases cmds with
    | nil => simp [encodeStream]
    | cons i is => simp [encodeStream_cons]

/-! ### Illegal bytes -/

/-- A byte that is no command, written to CMD of a block that is not halted, raises ILLEGAL_COMMAND (R112). -/
theorem step_of_illegalByte {s : State} {c : Byte} {e : DecodeError} {rest : List Transaction}
    (hp : s.pending = .write cmdAddr c :: rest) (he : decodeByte c = .error e) (running : s.errCause = 0x00) :
    step s = .next (raiseFault .illegalCommand c (s.setPending rest)) := by
  have notHalted : (s.setPending rest).halted = false := State.halted_eq_false.2 running
  rw [step_of_command hp, issueCommand_of_error he, notHalted]
  rfl

/-- Settles O4: the illegal bytes are those that `exists_decodeByte_eq_ok_iff_byte` leaves out. -/
theorem illegalByteRaisesIllegalCommand : Obligations.IllegalByteRaisesIllegalCommand := by
  constructor
  · intro s c rest illegal running hp
    have noCommand : ¬ ∃ i, decodeByte c = .ok i := by
      rw [exists_decodeByte_eq_ok_iff_byte]
      rintro ⟨h0, h4, h8⟩
      exact illegal.elim h0 (·.elim h4 h8.not_ge)
    obtain ⟨e, he⟩ := exists_decodeByte_eq_error.2 noCommand
    exact step_of_illegalByte hp he running
  · exact fun c h0 h4 h8 => exists_decodeByte_eq_ok_iff_byte.2 ⟨h0, h4, h8⟩

/-! ### The opcode map and the field table -/

/-- Settles O2: `decodeByte_eq_ok` at each row of the opcode map. -/
theorem opcodeMapIsTheTable : Obligations.OpcodeMapIsTheTable :=
  ⟨fun _ => decodeByte_eq_ok, fun _ => decodeByte_eq_ok, fun _ => decodeByte_eq_ok, fun _ => decodeByte_eq_ok,
    fun _ => decodeByte_eq_ok, fun _ => decodeByte_eq_ok, rfl, rfl, rfl, rfl, rfl, rfl⟩

/-- Settles O3: which bytes are commands by their fields, and each command's fields from its byte. -/
theorem commandByteFields : Obligations.CommandByteFields := by
  intro c
  constructor
  · intro illegal
    refine exists_decodeByte_eq_error.2 fun command => ?_
    obtain ⟨hrsv, hft⟩ := exists_decodeByte_eq_ok_iff_fields.1 command
    exact illegal.elim (· hrsv) hft
  · intro hrsv hft
    obtain ⟨i, hi⟩ := exists_decodeByte_eq_ok_iff_fields.2 ⟨hrsv, hft⟩
    refine ⟨i, hi, ?_⟩
    obtain rfl := decodeByte_eq_ok.1 hi
    cases i <;> decide

/-! ### The load pseudo-instructions -/

/-- Running consecutive writes stores their bytes one after another (R54, R71). `load stored ts` is the state in which the
bytes `stored` have been written and `ts` are pending; `hstep` says that one more write stores one more byte. -/
theorem run_writesFrom_after {load : List Byte → List Transaction → State} {base len : Nat} (hlen : base + len ≤ 0x10000)
    (hstep : ∀ (stored : List Byte) (a : HostAddr) (b : Byte) (ts : List Transaction), stored.length < len →
      a.toNat = base + stored.length → step (load stored (.write a b :: ts)) = .next (load (stored ++ [b]) ts))
    {rest : List Transaction} (bs stored : List Byte) (hfit : stored.length + bs.length ≤ len) :
    Host.Core.run Sys2Proof.core bs.length (load stored (writesFrom (base + stored.length) bs ++ rest)) =
      .next (load (stored ++ bs) rest) := by
  induction bs generalizing stored with
  | nil => simp [writesFrom, Host.Core.run]
  | cons b bs ih =>
    rw [List.length_cons] at hfit
    have address : (BitVec.ofNat 16 (base + stored.length)).toNat = base + stored.length := by
      rw [BitVec.toNat_ofNat, Nat.mod_eq_of_lt (by omega)]
    have stepped := hstep stored _ b (writesFrom (base + stored.length + 1) bs ++ rest) (by omega) address
    have loaded := ih (stored ++ [b]) (by simp; omega)
    rw [List.length_cons, writesFrom, List.cons_append, run_succ stepped]
    simpa [add_assoc] using loaded

/-- Running all of a line's writes, from the state in which nothing of them has been stored (R54, R71). -/
theorem run_writesFrom {load : List Byte → List Transaction → State} {base : Nat} {bs : List Byte} {s : State}
    {rest : List Transaction} (hlen : base + bs.length ≤ 0x10000)
    (hstep : ∀ (stored : List Byte) (a : HostAddr) (b : Byte) (ts : List Transaction), stored.length < bs.length →
      a.toNat = base + stored.length → step (load stored (.write a b :: ts)) = .next (load (stored ++ [b]) ts))
    (hs : load [] s.pending = s) (hp : s.pending = writesFrom base bs ++ rest) :
    Host.Core.run Sys2Proof.core bs.length s = .next (load bs rest) := by
  rw [← hs, hp]
  exact run_writesFrom_after hlen hstep bs [] (by simp)

/-- Register `r` with its first bytes written from a list (R10, R36). -/
def Reg.fill {n : Nat} (r : Reg n) (bs : List Byte) : Reg n :=
  Vector.ofFn fun k => (bs[k.val]?.map RegByte.written).getD r[k]

@[simp] theorem Reg.fill_getElem {n : Nat} (r : Reg n) (bs : List Byte) (k : Nat) (hk : k < n) :
    (r.fill bs)[k] = (bs[k]?.map RegByte.written).getD r[k] := by
  simp [Reg.fill]

theorem Reg.fill_nil {n : Nat} (r : Reg n) : r.fill [] = r :=
  Vector.ext fun k hk => by simp

theorem Reg.fill_toList {n : Nat} (r : Reg n) (v : Bytes n) : r.fill v.toList = Reg.ofBytes v :=
  Vector.ext fun k hk => by simp [hk]

theorem Reg.fill_concat {n : Nat} (r : Reg n) (bs : List Byte) (b : Byte) (h : bs.length < n) :
    r.fill (bs ++ [b]) = (r.fill bs).setByte ⟨bs.length, h⟩ b := by
  refine Vector.ext fun k hk => ?_
  rw [Reg.setByte_getElem, Reg.fill_getElem, Reg.fill_getElem]
  rcases lt_trichotomy k bs.length with hlt | rfl | hgt
  · simp [List.getElem?_append_left hlt, hlt.ne']
  · simp
  · simp [List.getElem?_eq_none, hgt.ne, hgt.le, Nat.succ_le_of_lt hgt]

/-- Running the writes of a whole register leaves it holding the bytes given, all written (R36, R71). `put r ts` is the
state with `r` in the register and `ts` pending; `hstep` says that a write to the register's byte `k` sets that byte. -/
theorem run_loadReg {n base : Nat} {put : Reg n → List Transaction → State} (hlen : base + n ≤ 0x10000)
    (hstep : ∀ (r : Reg n) (k : Fin n) (a : HostAddr) (b : Byte) (ts : List Transaction), a.toNat = base + k.val →
      step (put r (.write a b :: ts)) = .next (put (r.setByte k b) ts))
    {s : State} {r : Reg n} {v : Bytes n} {rest : List Transaction} (hs : put r s.pending = s)
    (hp : s.pending = writesFrom base v.toList ++ rest) :
    Host.Core.run Sys2Proof.core n s = .next (put (Reg.ofBytes v) rest) := by
  have filled := run_writesFrom (load := fun stored => put (r.fill stored)) (bs := v.toList) (by simpa using hlen)
    (fun stored a b ts hk ha => by
      have hn : stored.length < n := by simpa using hk
      rw [Reg.fill_concat r stored b hn]
      exact hstep _ ⟨_, hn⟩ a b ts ha)
    (by rwa [Reg.fill_nil]) hp
  rwa [Reg.fill_toList, Vector.length_toList] at filled

/-- One byte written after the others is one more byte of the same write (R11). -/
theorem Memory.writeBytes_concat (bs : List Byte) (m : Memory) (i : Nat) (b : Byte) :
    m.writeBytes i (bs ++ [b]) = (m.writeBytes i bs).write (i + bs.length) b := by
  induction bs generalizing m i with
  | nil => rfl
  | cons c bs ih =>
    rw [List.cons_append, Memory.writeBytes_cons, ih, Memory.writeBytes_cons, List.length_cons, add_right_comm, add_assoc]

/-- Running the writes of LD_FB is `MemWrite` when they fit FB (R11, R71). -/
theorem run_loadFb {s : State} {i : Nat} {bs : List Byte} {rest : List Transaction} (hc : s.cfg.WellFormed = true)
    (hfit : i + bs.length ≤ s.cfg.fbLen) (hp : s.pending = writesFrom (0x0100 + i) bs ++ rest) :
    Host.Core.run Sys2Proof.core bs.length s = .next { s with pending := rest, fb := s.fb.writeBytes i bs } := by
  have hmax : s.cfg.fbLen ≤ 65280 := of_decide_eq_true hc
  refine run_writesFrom (load := fun stored ts => { s with pending := ts, fb := s.fb.writeBytes i stored }) (by omega)
    (fun stored a b ts hk ha => ?_) rfl hp
  have inside : i + stored.length < s.cfg.fbLen := by omega
  rw [Memory.writeBytes_concat]
  exact step_of_store rfl (hostMap_fb inside (by omega)) rfl

/-- Settles O42: a register's load by `run_loadReg`, FB's by `run_loadFb` and the read-back of `MemWrite`. -/
theorem loadPseudoInstructionsLoad : Obligations.LoadPseudoInstructionsLoad := by
  intro s rest
  refine ⟨fun v hp => ?_, fun v hp => ?_, fun v hp => ?_, fun v hp => ?_, fun i bs hc hfit hp => ?_⟩
  · exact run_loadReg (put := fun r ts => { s with pending := ts, srcShort := r }) (by decide)
      (fun r k a b ts ha => step_of_store rfl (hostMap_srcShort k ha) rfl) rfl hp
  · exact run_loadReg (put := fun r ts => { s with pending := ts, dstShort := r }) (by decide)
      (fun r k a b ts ha => step_of_store rfl (hostMap_dstShort k ha) rfl) rfl hp
  · exact run_loadReg (put := fun r ts => { s with pending := ts, srcLong := r }) (by decide)
      (fun r k a b ts ha => step_of_store rfl (hostMap_srcLong k ha) rfl) rfl hp
  · exact run_loadReg (put := fun r ts => { s with pending := ts, dstLong := r }) (by decide)
      (fun r k a b ts ha => step_of_store rfl (hostMap_dstLong k ha) rfl) rfl hp
  · exact ⟨s.fb.writeBytes i bs, run_loadFb hc hfit hp, fun k hk => Memory.read_writeBytes_inside bs s.fb i k hk,
      Memory.read_writeBytes_outside bs s.fb i⟩

end Sys2Proof.Machine

/-! PROOFS. The family 40_generate.md: the frame each generate command writes (R80 to R82) and what it leaves unchanged
(R84). -/

namespace Sys2Proof.Machine

/-! ### The outcomes of a command that writes nothing -/

/-- A command longer than FB raises BUFFER_TOO_SMALL, and nothing else changes (R113). -/
theorem exec_of_tooSmall {i : Instr} {s : State} (running : s.errCause = 0x00) (small : s.cfg.fbLen < bytesNeeded i) :
    exec i s = .next { s with errCause := 0x02, errCmd := encodeByte i } := by
  obtain ⟨t, ht, result⟩ := exec_case i s
  cases result with
  | tooSmall => exact ht
  | ignored halted => exact absurd running halted
  | unwritten _ fits | mismatch _ fits | generated _ fits | decoded _ fits => exact absurd fits (Nat.not_le.2 small)

/-- A command that fits and meets an unwritten operand byte records UnwrittenRead, and nothing else changes (R118). -/
theorem exec_of_operandsUnwritten {i : Instr} {s : State} (running : s.errCause = 0x00)
    (fits : bytesNeeded i ≤ s.cfg.fbLen) (missing : operandsWritten i s = false) :
    exec i s = .next { s with unwrittenRead := true } := by
  obtain ⟨t, ht, result⟩ := exec_case i s
  cases result with
  | unwritten => exact ht
  | ignored halted => exact absurd running halted
  | tooSmall _ small => exact absurd fits (Nat.not_le.2 small)
  | mismatch _ _ _ operands | generated _ _ _ operands | decoded _ _ _ operands =>
    exact absurd operands (Bool.eq_false_iff.1 missing)

/-! ### The frames -/

/-- Settles O11: the short buffer and the unwritten operand by the outcomes above, the frame by `blinkFrame_read`. -/
theorem genBlinkWritesBlinkFrame : Obligations.GenBlinkWritesBlinkFrame := by
  refine ⟨rfl, fun s running => ⟨exec_of_tooSmall (i := .genBlink) running, fun fits unwritten => ?_,
    fun l h fits hl hh => ?_⟩⟩
  · refine exec_of_operandsUnwritten running fits ?_
    rcases unwritten with h | h <;> simp [operandsWritten, Reg.bytes_eq_none.2 h]
  · refine ⟨blinkFrame s l h, ?_, blinkFrame_read s l h⟩
    rw [← completeGenerate_eq]
    exact execGenBlink_eq running fits hl hh

/-- Settles O12: the short buffer and the unwritten operand by the outcomes above, the frame and its zero-fill by
`shortFrame_read`. -/
theorem genShortWritesShortFrame : Obligations.GenShortWritesShortFrame := by
  refine ⟨rfl, fun s running => ⟨exec_of_tooSmall (i := .genShort) running, fun fits unwritten => ?_,
    fun d h fits hd hh => ?_⟩⟩
  · refine exec_of_operandsUnwritten running fits ?_
    rcases unwritten with h | h <;> simp [operandsWritten, Reg.bytes_eq_none.2 h]
  · refine ⟨shortFrame s d h, ?_, shortFrame_read s d h⟩
    rw [← completeGenerate_eq]
    exact execGenShort_eq running fits hd hh

/-- Settles O13: the short buffer and the unwritten operand by the outcomes above, the frame by `longFrame_read`. -/
theorem genLongWritesLongFrame : Obligations.GenLongWritesLongFrame := by
  refine ⟨rfl, fun s running => ⟨exec_of_tooSmall (i := .genLong) running, fun fits unwritten => ?_,
    fun dl sl h fits hd hl hh => ?_⟩⟩
  · refine exec_of_operandsUnwritten running fits ?_
    rcases unwritten with h | h | h <;> simp [operandsWritten, Reg.bytes_eq_none.2 h]
  · refine ⟨longFrame s dl sl h, ?_, longFrame_read s dl sl h⟩
    rw [← completeGenerate_eq]
    exact execGenLong_eq running fits hd hl hh

/-! ### The frame of a generate command -/

/-- Settles O14: over the cases of a command. A fault writes the status registers alone, a missing operand the run's mark
alone, and a completed command FB and SEQ alone. -/
theorem generateCommandsFrame : Obligations.GenerateCommandsFrame := by
  intro i s t isGenerate h
  have notDecode : i.isDecode ≠ true := Bool.eq_false_iff.1 isGenerate
  cases commandCase_of_exec h with
  | ignored =>
    exact ⟨rfl, rfl, rfl, rfl, rfl, rfl, rfl, rfl, rfl, .inl ⟨rfl, rfl⟩, .inl rfl, .inr ⟨rfl, rfl⟩, fun _ _ _ => rfl⟩
  | tooSmall =>
    exact ⟨rfl, rfl, rfl, rfl, rfl, rfl, rfl, rfl, rfl, .inr rfl, .inl rfl, .inr ⟨rfl, rfl⟩, fun _ _ _ => rfl⟩
  | unwritten =>
    exact ⟨rfl, rfl, rfl, rfl, rfl, rfl, rfl, rfl, rfl, .inl ⟨rfl, rfl⟩, .inr rfl, .inr ⟨rfl, rfl⟩, fun _ _ _ => rfl⟩
  | generated _ _ _ _ m frame =>
    exact ⟨rfl, rfl, rfl, rfl, rfl, rfl, rfl, rfl, rfl, .inl ⟨rfl, rfl⟩, .inl rfl, .inl rfl, frame.outside⟩
  | mismatch _ _ isDecode | decoded _ _ isDecode => exact absurd isDecode notDecode

end Sys2Proof.Machine

/-! PROOFS. The family 41_decode.md: what each decode command extracts (R90 to R92), what it leaves unchanged (R94), which
offsets it depends on (R93), and the round trip after a generate (R95). -/

namespace Sys2Proof.Machine

/-! ### The frame-control check -/

/-- The check fails exactly when VALIDATE_FC is true and FB holds, at the pattern's offsets, written bytes other than the
pattern (R69, R114). -/
theorem frameControlMatches_eq_some_false {i : Instr} {s : State} :
    frameControlMatches i s = some false ↔
      s.cfg.validateFc = true ∧ (∀ k, k < (frameControl s.cfg i).length → s.fb.read k ≠ none) ∧
        ∃ k, k < (frameControl s.cfg i).length ∧ s.fb.read k ≠ (frameControl s.cfg i)[k]? := by
  have neither : frameControlMatches i s = some false ↔
      ¬frameControlMatches i s = none ∧ ¬frameControlMatches i s = some true := by
    rcases frameControlMatches i s with _ | _ | _ <;> simp
  rw [neither, frameControlMatches_eq_none, frameControlMatches_eq_some_true]
  by_cases hv : s.cfg.validateFc = true <;> simp [hv]

/-- With VALIDATE_FC false the check passes (R93). -/
theorem frameControlMatches_of_noValidate {i : Instr} {s : State} (off : s.cfg.validateFc = false) :
    frameControlMatches i s = some true := by
  simp [frameControlMatches, off]

section
variable {i : Instr} {s : State} {fc1 fc2 : Byte} (pattern : frameControl s.cfg i = [fc1, fc2])
include pattern

/-- A pattern of two bytes: the check meets an unwritten byte. -/
theorem frameControlMatches_two_eq_none :
    frameControlMatches i s = none ↔ s.cfg.validateFc = true ∧ (s.fb.read 0 = none ∨ s.fb.read 1 = none) := by
  simp [frameControlMatches_eq_none, pattern, Nat.le_one_iff_eq_zero_or_eq_one]

/-- A pattern of two bytes: the check passes. -/
theorem frameControlMatches_two_eq_some_true :
    frameControlMatches i s = some true ↔
      (s.cfg.validateFc = true → s.fb.read 0 = some fc1 ∧ s.fb.read 1 = some fc2) := by
  simp [frameControlMatches_eq_some_true, pattern, Nat.le_one_iff_eq_zero_or_eq_one]

/-- A pattern of two bytes: the check fails on any other two written bytes. -/
theorem frameControlMatches_two_eq_some_false {b0 b1 : Byte} (validate : s.cfg.validateFc = true)
    (hb0 : s.fb.read 0 = some b0) (hb1 : s.fb.read 1 = some b1) (differs : b0 ≠ fc1 ∨ b1 ≠ fc2) :
    frameControlMatches i s = some false := by
  simpa [frameControlMatches_eq_some_false, pattern, Nat.le_one_iff_eq_zero_or_eq_one, validate, hb0, hb1]
    using differs

end

/-! ### The outcomes of a decode that writes no output -/

/-- A decode command that fits and meets an unwritten frame-control byte records UnwrittenRead, and nothing else changes
(R117 step 4, R118). -/
theorem exec_of_frameControlUnwritten {i : Instr} {s : State} (running : s.errCause = 0x00)
    (fits : bytesNeeded i ≤ s.cfg.fbLen) (isDecode : i.isDecode = true) (missing : frameControlMatches i s = none) :
    exec i s = .next { s with unwrittenRead := true } := by
  obtain ⟨t, ht, result⟩ := exec_case i s
  cases result with
  | unwritten => exact ht
  | ignored halted => exact absurd running halted
  | tooSmall _ small => exact absurd fits (Nat.not_le.2 small)
  | generated _ _ isGenerate => exact absurd isDecode (Bool.eq_false_iff.1 isGenerate)
  | mismatch _ _ _ _ differs => simp [missing] at differs
  | decoded _ _ _ _ matched => simp [missing] at matched

/-- A decode command that fits, with its operands written and other frame-control bytes, raises UNEXPECTED_FRAME_TYPE, and
nothing else changes (R114). -/
theorem exec_of_frameControlDiffers {i : Instr} {s : State} (running : s.errCause = 0x00)
    (fits : bytesNeeded i ≤ s.cfg.fbLen) (isDecode : i.isDecode = true) (operands : operandsWritten i s = true)
    (differs : frameControlMatches i s = some false) :
    exec i s = .next { s with errCause := 0x03, errCmd := encodeByte i } := by
  obtain ⟨t, ht, result⟩ := exec_case i s
  cases result with
  | mismatch => exact ht
  | ignored halted => exact absurd running halted
  | tooSmall _ small => exact absurd fits (Nat.not_le.2 small)
  | unwritten _ _ missing => simp [operands, differs] at missing
  | generated _ _ isGenerate => exact absurd isDecode (Bool.eq_false_iff.1 isGenerate)
  | decoded _ _ _ _ matched => simp [differs] at matched

/-! ### Reading an address from FB -/

/-- An unwritten byte among those that `MemRead` reads leaves it without a value (R118). -/
theorem Memory.readBytes_isSome_eq_false {m : Memory} {i n a : Nat} (hi : i ≤ a) (ha : a < i + n)
    (unwritten : m.read a = none) : (m.readBytes i n).isSome = false :=
  Bool.eq_false_iff.2 fun h => Memory.readBytes_isSome.1 h a hi ha unwritten

/-- Two adjacent parts that are written make a written whole. -/
theorem Memory.readBytes_isSome_of_parts {m : Memory} {i a b : Nat} {v : Bytes a} {w : Bytes b}
    (hv : m.readBytes i a = some v) (hw : m.readBytes (i + a) b = some w) : (m.readBytes i (a + b)).isSome = true := by
  rw [Memory.readBytes_isSome_split, hv, hw]
  rfl

/-- `MemRead` gives the reversal of `v` exactly when FB holds `v` backwards (R11, R100). -/
theorem Memory.readBytes_eq_some_rev {m : Memory} {i n : Nat} {v : Bytes n} :
    m.readBytes i n = some (rev v) ↔ ∀ k : Fin n, m.read (i + (n - 1 - k.val)) = some v[k] := by
  rw [Memory.readBytes_eq_some, Fin.rev_surjective.forall]
  refine forall_congr' fun k => ?_
  have back : n - 1 - (n - (k.val + 1)) = k.val := by omega
  have mirror : n - 1 - k.val = n - (k.val + 1) := by omega
  simp only [Fin.getElem_fin, Fin.val_rev, rev_getElem, back, mirror]

/-- The two bytes of a short address, least significant first (R65). -/
theorem Memory.readBytes_two_eq_some_rev {m : Memory} {i : Nat} {h : Bytes 2} :
    m.readBytes i 2 = some (rev h) ↔ m.read (i + 1) = some h[0] ∧ m.read i = some h[1] := by
  simp [Memory.readBytes_eq_some_rev, Fin.forall_fin_two]

/-! ### The decode commands -/

/-- Settles O15: each outcome above at DEC_BLINK's offsets, and `execDecBlink_eq` where it completes. -/
theorem decBlinkExtractsAddresses : Obligations.DecBlinkExtractsAddresses := by
  refine ⟨rfl, fun s running => ⟨exec_of_tooSmall (i := .decBlink) running, fun fits missing => ?_,
    fun l h fits long short0 short1 => ?_⟩⟩
  · rcases missing with ⟨a, ha, ha', unwritten⟩ | ⟨validate, unwritten⟩
    · exact exec_of_operandsUnwritten running fits
        (Memory.readBytes_isSome_eq_false ha (Nat.lt_succ_of_le ha') unwritten)
    · exact exec_of_frameControlUnwritten running fits rfl
        (frameControlMatches_eq_none.2 ⟨validate, 0, Nat.one_pos, unwritten⟩)
  · have hl : s.fb.readBytes 2 8 = some (rev l) := Memory.readBytes_eq_some_rev.2 fun k => by
      rw [← long k]; congr 1; omega
    have hh : s.fb.readBytes 10 2 = some (rev h) := Memory.readBytes_two_eq_some_rev.2 ⟨short0, short1⟩
    refine ⟨fun b validate hb differs => ?_, fun matched => ?_⟩
    · refine exec_of_frameControlDiffers (i := .decBlink) running fits rfl (Memory.readBytes_isSome_of_parts hl hh) ?_
      exact frameControlMatches_eq_some_false.2
        ⟨validate, by simp [frameControl, hb], 0, by simp [frameControl, hb, differs]⟩
    · refine execDecBlink_eq running fits (frameControlMatches_eq_some_true.2 ?_) hl hh
      simpa [frameControl] using matched

/-- Settles O16: as for DEC_BLINK, with two frame-control bytes and no long address. -/
theorem decShortExtractsSource : Obligations.DecShortExtractsSource := by
  refine ⟨rfl, fun s running => ⟨exec_of_tooSmall (i := .decShort) running, fun fits missing => ?_,
    fun h fits short0 short1 => ?_⟩⟩
  · rcases missing with unwritten | unwritten | control
    · exact exec_of_operandsUnwritten running fits (Memory.readBytes_isSome_eq_false (by omega) (by omega) unwritten)
    · exact exec_of_operandsUnwritten running fits (Memory.readBytes_isSome_eq_false (by omega) (by omega) unwritten)
    · exact exec_of_frameControlUnwritten running fits rfl ((frameControlMatches_two_eq_none rfl).2 control)
  · have hh : s.fb.readBytes 7 2 = some (rev h) := Memory.readBytes_two_eq_some_rev.2 ⟨short0, short1⟩
    refine ⟨fun b0 b1 validate hb0 hb1 differs => ?_, fun matched => ?_⟩
    · exact exec_of_frameControlDiffers (i := .decShort) running fits rfl (Option.isSome_of_eq_some hh)
        (frameControlMatches_two_eq_some_false rfl validate hb0 hb1 differs)
    · exact execDecShort_eq running fits ((frameControlMatches_two_eq_some_true rfl).2 matched) hh

/-- Settles O17: as for DEC_BLINK, with two frame-control bytes. -/
theorem decLongExtractsSources : Obligations.DecLongExtractsSources := by
  refine ⟨rfl, fun s running => ⟨exec_of_tooSmall (i := .decLong) running, fun fits missing => ?_,
    fun h l fits short0 short1 long => ?_⟩⟩
  · rcases missing with ⟨a, ha, ha', unwritten⟩ | control
    · exact exec_of_operandsUnwritten running fits
        (Memory.readBytes_isSome_eq_false ha (Nat.lt_succ_of_le ha') unwritten)
    · exact exec_of_frameControlUnwritten running fits rfl ((frameControlMatches_two_eq_none rfl).2 control)
  · have hl : s.fb.readBytes 13 8 = some (rev l) := Memory.readBytes_eq_some_rev.2 fun k => by
      rw [← long k]; congr 1; omega
    have hh : s.fb.readBytes 21 2 = some (rev h) := Memory.readBytes_two_eq_some_rev.2 ⟨short0, short1⟩
    refine ⟨fun b0 b1 validate hb0 hb1 differs => ?_, fun matched => ?_⟩
    · exact exec_of_frameControlDiffers (i := .decLong) running fits rfl (Memory.readBytes_isSome_of_parts hl hh)
        (frameControlMatches_two_eq_some_false rfl validate hb0 hb1 differs)
    · exact execDecLong_eq running fits ((frameControlMatches_two_eq_some_true rfl).2 matched) hl hh

/-! ### What a decode command leaves unchanged -/

/-- Settles O18: over the cases of a command. A fault writes the status registers alone, an unwritten byte the run's mark
alone, and a completed decode the output registers alone. -/
theorem decodeCommandsFrame : Obligations.DecodeCommandsFrame := by
  intro i s t isDecode h
  cases commandCase_of_exec h with
  | ignored =>
    exact ⟨rfl, rfl, rfl, rfl, rfl, rfl, fun _ => rfl, rfl, rfl, fun _ => rfl, .inl ⟨rfl, rfl⟩, .inl rfl⟩
  | tooSmall | mismatch =>
    exact ⟨rfl, rfl, rfl, rfl, rfl, rfl, fun _ => rfl, rfl, rfl, fun _ => rfl, .inr ⟨rfl, rfl⟩, .inl rfl⟩
  | unwritten =>
    exact ⟨rfl, rfl, rfl, rfl, rfl, rfl, fun _ => rfl, rfl, rfl, fun _ => rfl, .inl ⟨rfl, rfl⟩, .inr rfl⟩
  | decoded _ _ _ _ _ _ _ keepsLong =>
    exact ⟨rfl, rfl, rfl, rfl, rfl, rfl, fun _ => rfl, rfl, rfl, keepsLong, .inl ⟨rfl, rfl⟩, .inl rfl⟩
  | generated _ _ isGenerate => exact absurd isDecode (Bool.eq_false_iff.1 isGenerate)

/-! ### What a decode command depends on -/

/-- With VALIDATE_FC false, another frame buffer that gives the same outputs changes nothing else in what a decode
answers (R93). -/
theorem dispatchDecode_setFb {i : Instr} {s : State} {m : Memory} {outputs outputs' : Option State}
    (off : s.cfg.validateFc = false) (same : outputs' = outputs.map (State.setFb · m)) :
    dispatchCommand i (s.setFb m) (performDecode i (s.setFb m) outputs') =
      (dispatchCommand i s (performDecode i s outputs)).setFb m := by
  have passed := frameControlMatches_of_noValidate (i := i) off
  have passed' := frameControlMatches_of_noValidate (i := i) (s := s.setFb m) off
  have performed : performDecode i (s.setFb m) outputs' = (performDecode i s outputs).setFb m := by
    subst same
    cases outputs <;> simp only [performDecode, passed, passed'] <;> rfl
  rw [performed]
  simp only [dispatchCommand, apply_ite (State.setFb · m)]
  rfl

/-- Settles O19: within its offsets each decode reads the same bytes of both buffers, and `dispatchDecode_setFb` gives the
rest. -/
theorem decodeSeesOnlyItsOffsets : Obligations.DecodeSeesOnlyItsOffsets := by
  intro i s m lo hi off command agree
  have same {j n : Nat} (hlo : lo ≤ j) (hhi : j + n ≤ hi + 1) : m.readBytes j n = s.fb.readBytes j n :=
    Memory.readBytes_congr fun k _ _ => agree k (by omega) (by omega)
  rcases command with ⟨rfl, rfl, rfl⟩ | ⟨rfl, rfl, rfl⟩ | ⟨rfl, rfl, rfl⟩ <;>
    refine ⟨_, rfl, congrArg Host.Outcome.next (dispatchDecode_setFb off ?_)⟩
  · have long : m.readBytes 2 8 = s.fb.readBytes 2 8 := same (by decide) (by decide)
    have short : m.readBytes 10 2 = s.fb.readBytes 10 2 := same (by decide) (by decide)
    simp only [long, short]
    rcases s.fb.readBytes 2 8 with _ | l <;> rcases s.fb.readBytes 10 2 with _ | h <;> rfl
  · have short : m.readBytes 7 2 = s.fb.readBytes 7 2 := same (by decide) (by decide)
    simp only [short]
    rcases s.fb.readBytes 7 2 with _ | h <;> rfl
  · have long : m.readBytes 13 8 = s.fb.readBytes 13 8 := same (by decide) (by decide)
    have short : m.readBytes 21 2 = s.fb.readBytes 21 2 := same (by decide) (by decide)
    simp only [long, short]
    rcases s.fb.readBytes 21 2 with _ | h <;> rcases s.fb.readBytes 13 8 with _ | l <;> rfl

/-! ### The round trip -/

/-- The source address in the eight bytes from `i` on, backwards, is what `MemRead` and the reversal give back (R95). -/
theorem Memory.readBytes_eight_of_reads {m : Memory} {i : Nat} {l : Bytes 8}
    (h : ∀ k : Fin 8, m.read (i + k.val) = some l[7 - k.val]) : m.readBytes i 8 = some (rev l) :=
  Memory.readBytes_eq_some.2 fun k => by rw [h k]; simp

/-- A state with the parameters and the FB that a completed generate left has the generate's own parameters, and its frame
in FB (R83, R95). -/
theorem cfg_and_fb_after_generated {outcome : Host.Outcome State Fault Refusal} {s t u : State} {frame : Memory}
    (completes : outcome = .next (completeGenerate s frame)) (generated : outcome = .next t) (hcfg : u.cfg = t.cfg)
    (hfb : u.fb = t.fb) : u.cfg = s.cfg ∧ u.fb = frame := by
  cases completes.symm.trans generated
  exact ⟨hcfg, hfb⟩

/-- Settles O20: each generate's frame, by its `_read` lemma, holds what the matching decode needs to complete. -/
theorem decodeAfterGenerateRecovers : Obligations.DecodeAfterGenerateRecovers := by
  refine ⟨fun s t u l h running fits hl hh generated running' hcfg hfb => ?_,
    fun s t u d h running fits hd hh generated running' hcfg hfb => ?_,
    fun s t u dl sl h running fits hd hl hh generated running' hcfg hfb => ?_⟩
  · obtain ⟨hcfg, hfb⟩ := cfg_and_fb_after_generated (execGenBlink_eq running fits hl hh) generated hcfg hfb
    obtain ⟨fc, -, long, short1, short0, -⟩ := blinkFrame_read s l h
    rw [← hcfg] at fits fc
    rw [← hfb] at fc long short0 short1
    refine execDecBlink_eq running' fits (frameControlMatches_eq_some_true.2 ?_)
      (Memory.readBytes_eight_of_reads long) (Memory.readBytes_two_eq_some_rev.2 ⟨short0, short1⟩)
    simpa [frameControl] using fun _ => fc
  · obtain ⟨hcfg, hfb⟩ := cfg_and_fb_after_generated (execGenShort_eq running fits hd hh) generated hcfg hfb
    obtain ⟨fc1, fc2, -, -, -, -, -, short1, short0, -⟩ := shortFrame_read s d h
    rw [← hcfg] at fits fc1 fc2
    rw [← hfb] at fc1 fc2 short0 short1
    exact execDecShort_eq running' fits ((frameControlMatches_two_eq_some_true rfl).2 fun _ => ⟨fc1, fc2⟩)
      (Memory.readBytes_two_eq_some_rev.2 ⟨short0, short1⟩)
  · obtain ⟨hcfg, hfb⟩ := cfg_and_fb_after_generated (execGenLong_eq running fits hd hl hh) generated hcfg hfb
    obtain ⟨fc1, fc2, -, -, -, -, long, short1, short0, -⟩ := longFrame_read s dl sl h
    rw [← hcfg] at fits fc1 fc2
    rw [← hfb] at fc1 fc2 long short0 short1
    exact execDecLong_eq running' fits ((frameControlMatches_two_eq_some_true rfl).2 fun _ => ⟨fc1, fc2⟩)
      (Memory.readBytes_eight_of_reads long) (Memory.readBytes_two_eq_some_rev.2 ⟨short0, short1⟩)

end Sys2Proof.Machine

/-! PROOFS. The family 42_helpers.md: the reversal engine (R100, R101), the increment (R103), and the sequence counter
over a step (R105) and over a run (R104). -/

namespace Sys2Proof.Machine

/-! ### The helper functions -/

/-- Equal reversals come from equal lists, since REV_n undoes itself (R101). -/
theorem rev_injective {n : Nat} : Function.Injective (rev (n := n)) := Function.Involutive.injective rev_rev

/-- Settles O6: byte by byte by `rev_getElem`, and `rev_rev`. -/
theorem reversalByIndexAndInvolution : Obligations.ReversalByIndexAndInvolution :=
  ⟨fun _ _ => rfl, fun _ _ _ _ _ _ _ _ => rfl, fun _ v k => rev_getElem v k k.isLt, fun _ v => rev_rev v,
    fun _ _ _ h => rev_injective h⟩

/-- Settles O8: INC is addition on bytes, `inc_eq_add_one`. -/
theorem incrementIsModulo256 : Obligations.IncrementIsModulo256 :=
  ⟨rfl, fun s => by rw [inc_eq_add_one, BitVec.toNat_add]; rfl⟩

/-! ### The generate command that completes next -/

/-- The next transaction completes generate command `i` exactly when it writes `i`'s byte to CMD of a block that is not
halted, with a long enough FB and every operand byte written (R103, R117). -/
theorem State.completingGenerate_eq_some {s : State} {i : Instr} :
    s.completingGenerate = some i ↔ ∃ c rest, s.pending = .write cmdAddr c :: rest ∧ decodeByte c = .ok i ∧
      i.isDecode = false ∧ s.errCause = 0x00 ∧ bytesNeeded i ≤ s.cfg.fbLen ∧ operandsWritten i s = true := by
  constructor
  · intro h
    unfold State.completingGenerate at h
    split at h
    next a c rest hp =>
      split_ifs at h with ha
      subst ha
      split at h
      next j hd =>
        split_ifs at h with hready
        cases h
        simp only [Bool.and_eq_true, Bool.not_eq_true', decide_eq_true_eq, State.halted_eq_false] at hready
        obtain ⟨⟨⟨isGenerate, running⟩, fits⟩, operands⟩ := hready
        exact ⟨c, rest, hp, hd, isGenerate, running, fits, operands⟩
      next => cases h
    next => cases h
  · rintro ⟨c, rest, hp, hd, isGenerate, running, fits, operands⟩
    simp [State.completingGenerate, hp, hd, isGenerate, State.halted_eq_false.2 running, fits, operands]

/-- A generate command that completes writes SEQ into its frame and then increments it (R83, R103). -/
theorem step_of_completingGenerate {s : State} {i : Instr} (h : s.completingGenerate = some i) :
    ∃ t, step s = .next t ∧ t.seq = s.seq + 1 ∧ t.fb.read (sequenceOffset i) = some s.seq := by
  obtain ⟨c, rest, hp, hd, isGenerate, running, fits, operands⟩ := State.completingGenerate_eq_some.1 h
  rw [step_of_decodedCommand hp hd]
  obtain ⟨t, ht, result⟩ := exec_case i (s.setPending rest)
  refine ⟨t, ht, ?_⟩
  cases result with
  | generated _ _ _ _ m frame => exact ⟨rfl, frame.sequence⟩
  | ignored halted => exact absurd running halted
  | tooSmall _ small => exact absurd fits (Nat.not_le.2 small)
  | mismatch _ _ isDecode | decoded _ _ isDecode => exact absurd isDecode (Bool.eq_false_iff.1 isGenerate)
  | unwritten _ _ missing =>
    rcases missing with missing | ⟨isDecode, -⟩
    · exact absurd operands (Bool.eq_false_iff.1 missing)
    · exact absurd isDecode (Bool.eq_false_iff.1 isGenerate)

/-! ### One step -/

/-- A step that is no reset and completes no generate command keeps SEQ (R105). -/
theorem step_seq_of_not_completing {s t : State} (h : step s = .next t) (noReset : s.pending.head? ≠ some .reset)
    (incomplete : s.completingGenerate = none) : t.seq = s.seq := by
  cases step_case h with
  | reset rest next => exact absurd (by rw [next]; rfl) noReset
  | command i c rest next decoded _ result =>
    cases result with
    | generated running fits isGenerate operands =>
      have completes : s.completingGenerate = some i :=
        State.completingGenerate_eq_some.2 ⟨c, rest, next, decoded, isGenerate, running, fits, operands⟩
      simp [incomplete] at completes
    | _ => rfl
  | _ => rfl

/-- Settles O29: reset by its own equation, the other two clauses by the lemmas above. -/
theorem seqChangesOnlyByIncOrReset : Obligations.SeqChangesOnlyByIncOrReset := by
  intro s t h
  refine ⟨fun isReset => ?_, fun _ completes => ?_, fun noReset incomplete => ?_⟩
  · obtain ⟨rest, hp⟩ := List.head?_eq_some_iff.1 isReset
    cases (step_of_reset hp).symm.trans h
    rfl
  · obtain ⟨i, hi⟩ := Option.isSome_iff_exists.1 completes
    obtain ⟨u, hu, seq, -⟩ := step_of_completingGenerate hi
    cases hu.symm.trans h
    exact seq
  · exact step_seq_of_not_completing h noReset (by simpa using incomplete)

/-! ### A run -/

/-- No case of a command touches the transactions still to come. -/
theorem CommandCase.pending_eq {i : Instr} {s t : State} (h : CommandCase i s t) : t.pending = s.pending := by
  cases h <;> rfl

/-- A step takes one transaction off the list (R54). -/
theorem step_pending {s t : State} (h : step s = .next t) : t.pending = s.pending.tail := by
  cases step_case h with
  | idle empty => simp [empty]
  | command _ _ rest next _ _ result => rw [result.pending_eq, next]; rfl
  | _ => rw [‹s.pending = _›]; rfl

/-- A run of `k + 1` steps that ends in a next state is a step and a run of `k`. -/
theorem run_succ_eq_next {k : Nat} {s t : State} (h : Host.Core.run Sys2Proof.core (k + 1) s = .next t) :
    ∃ u, step s = .next u ∧ Host.Core.run Sys2Proof.core k u = .next t := by
  rcases hs : step s with u | r | r
  · exact ⟨u, rfl, run_succ hs ▸ h⟩
  · simp [Host.Core.run, show Sys2Proof.core.step s = .fault r from hs] at h
  · simp [Host.Core.run, show Sys2Proof.core.step s = .refused r from hs] at h

/-- The generates of a run: the first step's, and the rest's (R104). -/
theorem generatesCompleted_succ {k : Nat} {s t : State} (h : step s = .next t) :
    generatesCompleted (k + 1) s = (if s.completingGenerate.isSome then 1 else 0) + generatesCompleted k t := by
  rw [generatesCompleted, h]

/-- A step that is no reset advances SEQ by the generates it completes, one or none (R104, R105). -/
theorem step_seq {s t : State} (h : step s = .next t) (noReset : s.pending.head? ≠ some .reset) :
    t.seq = s.seq + BitVec.ofNat 8 (if s.completingGenerate.isSome then 1 else 0) := by
  obtain ⟨-, incremented, kept⟩ := seqChangesOnlyByIncOrReset s t h
  split
  next completes => exact incremented noReset completes
  next incomplete => rw [kept noReset (by simpa using incomplete)]; simp

/-- A run without a reset advances SEQ by the generates it completes (R104). -/
theorem run_seq {k : Nat} {s t : State} (noReset : Transaction.reset ∉ s.pending.take k)
    (h : Host.Core.run Sys2Proof.core k s = .next t) : t.seq = s.seq + BitVec.ofNat 8 (generatesCompleted k s) := by
  induction k generalizing s with
  | zero => cases h; simp [generatesCompleted]
  | succ k ih =>
    obtain ⟨u, hu, hrun⟩ := run_succ_eq_next h
    have first : s.pending.head? ≠ some .reset := by
      intro isReset
      obtain ⟨rest, hp⟩ := List.head?_eq_some_iff.1 isReset
      simp [hp] at noReset
    have later : Transaction.reset ∉ u.pending.take k := by
      rw [step_pending hu, ← List.drop_one, List.take_drop]
      exact fun hmem => noReset (List.mem_of_mem_drop (Nat.add_comm 1 k ▸ hmem))
    rw [ih later hrun, step_seq hu first, generatesCompleted_succ hu, BitVec.ofNat_add, BitVec.add_assoc]

/-- Settles O30: `run_seq`, and the next generate by `step_of_completingGenerate`. -/
theorem seqCountsCompletedGenerates : Obligations.SeqCountsCompletedGenerates := by
  intro k s t noReset h
  have advance : t.seq = s.seq + BitVec.ofNat 8 (generatesCompleted k s) := run_seq noReset h
  refine ⟨advance, fun zero => ?_, fun i hi => ?_⟩
  · rw [advance, zero]
    simp
  · obtain ⟨u, hu, -, sequence⟩ := step_of_completingGenerate hi
    exact ⟨u, hu, sequence⟩

end Sys2Proof.Machine

/-! PROOFS. The family 60_exceptions.md: the values under unwritten marks (R36, R118), faults and the halted block
(R110, R113 to R118), and the transactions that always have a next state (R123). -/

namespace Sys2Proof.Machine

/-! ### Unwritten values do not matter -/

/-- Next states that agree in what is known are outcomes that do. -/
theorem SameKnown.next {s t : State} (h : SameKnown s t) : sameKnownOutcome (.next s) (.next t) :=
  State.sameKnown_iff.2 h

/-- A decode's steps 4 to 6 of R117 keep the relation when its outputs do. -/
theorem SameKnown.performDecode {s t : State} (h : SameKnown s t) (i : Instr) {o p : Option State}
    (outputs : Option.Rel SameKnown o p) : SameKnown (performDecode i s o) (performDecode i t p) := by
  unfold Sys2Proof.Machine.performDecode
  rw [h.frameControlMatches i]
  cases outputs with
  | none => rcases Sys2Proof.Machine.frameControlMatches i s with _ | _ | _ <;> exact h.recordUnwrittenRead
  | some written =>
    rcases Sys2Proof.Machine.frameControlMatches i s with _ | _ | _
    · exact h.recordUnwrittenRead
    · exact h.raiseFault _ _
    · exact written

/-- A command does the same whatever lies under unwritten marks: it reads whole registers, and FB (R36, R118). -/
theorem SameKnown.exec {s t : State} (h : SameKnown s t) (i : Instr) : sameKnownOutcome (exec i s) (exec i t) := by
  have srcShort := Reg.bytes_congr h.srcShort
  have dstShort := Reg.bytes_congr h.dstShort
  have srcLong := Reg.bytes_congr h.srcLong
  have dstLong := Reg.bytes_congr h.dstLong
  cases i with
  | genBlink =>
    refine (h.dispatchCommand _ ?_).next
    rw [← srcLong, ← srcShort, h.cfg, h.fb, h.seq]
    split
    · exact h.completeGenerate _
    · exact h.recordUnwrittenRead
  | genShort =>
    refine (h.dispatchCommand _ ?_).next
    rw [← dstShort, ← srcShort, h.cfg, h.fb, h.seq]
    split
    · exact h.completeGenerate _
    · exact h.recordUnwrittenRead
  | genLong =>
    refine (h.dispatchCommand _ ?_).next
    rw [← dstLong, ← srcLong, ← srcShort, h.cfg, h.fb, h.seq]
    split
    · exact h.completeGenerate _
    · exact h.recordUnwrittenRead
  | decBlink =>
    refine (h.dispatchCommand _ (h.performDecode _ ?_)).next
    rw [h.fb]
    split
    · exact .some ((h.setOutLong _).setOutShort _)
    · exact .none
  | decShort =>
    refine (h.dispatchCommand _ (h.performDecode _ ?_)).next
    rw [h.fb]
    split
    · exact .some (h.setOutShort _)
    · exact .none
  | decLong =>
    refine (h.dispatchCommand _ (h.performDecode _ ?_)).next
    rw [h.fb]
    split
    · exact .some ((h.setOutShort _).setOutLong _)
    · exact .none

/-- A byte written to CMD does the same whatever lies under unwritten marks. -/
theorem SameKnown.issueCommand {s t : State} (h : SameKnown s t) (c : Byte) :
    sameKnownOutcome (issueCommand c s) (issueCommand c t) := by
  rcases hd : decodeByte c with e | i
  · rw [issueCommand_of_error hd, issueCommand_of_error hd]
    refine SameKnown.next ?_
    rw [State.halted, State.halted, h.errCause]
    split
    · exact h
    · exact h.raiseFault _ _
  · rw [issueCommand_of_ok hd, issueCommand_of_ok hd]
    exact h.exec i

/-- A host write does the same whatever lies under unwritten marks (R44). -/
theorem SameKnown.hostWrite {s t : State} (h : SameKnown s t) (a : HostAddr) (v : Byte) :
    sameKnownOutcome (hostWrite a v s) (hostWrite a v t) := by
  simp only [Sys2Proof.Machine.hostWrite, h.cfg, h.fb]
  rcases hostMap s.cfg a with _ | loc
  · rfl
  · cases loc with
    | cmd => exact h.issueCommand v
    | srcShort k => exact (h.setSrcShort (Reg.sameKnown_setByte h.srcShort k v)).next
    | dstShort k => exact (h.setDstShort (Reg.sameKnown_setByte h.dstShort k v)).next
    | srcLong k => exact (h.setSrcLong (Reg.sameKnown_setByte h.srcLong k v)).next
    | dstLong k => exact (h.setDstLong (Reg.sameKnown_setByte h.dstLong k v)).next
    | fb i => exact (h.setFb _).next
    | errCause | errCmd | outShort | outLong => rfl

/-- The known byte of every location is the same (R36, R45). -/
theorem SameKnown.byteAt {s t : State} (h : SameKnown s t) (loc : HostLoc) : t.byteAt loc = s.byteAt loc := by
  cases loc with
  | cmd => rfl
  | errCause => exact congrArg some h.errCause
  | errCmd => exact congrArg some h.errCmd
  | srcShort k => exact (Reg.sameKnown_iff.1 h.srcShort k).symm
  | dstShort k => exact (Reg.sameKnown_iff.1 h.dstShort k).symm
  | srcLong k => exact (Reg.sameKnown_iff.1 h.srcLong k).symm
  | dstLong k => exact (Reg.sameKnown_iff.1 h.dstLong k).symm
  | outShort k => exact (Reg.sameKnown_iff.1 h.outShort k).symm
  | outLong k => exact (Reg.sameKnown_iff.1 h.outLong k).symm
  | fb i => exact congrArg (Memory.read · i) h.fb

theorem SameKnown.answerRead {s t : State} (h : SameKnown s t) (a : HostAddr) (x : Option Byte) :
    sameKnownOutcome (answerRead a x s) (answerRead a x t) := by
  cases x with
  | none => exact h.recordUnwrittenRead.next
  | some b => exact (h.answer _).next

/-- A host read does the same whatever lies under unwritten marks (R45, R118). -/
theorem SameKnown.hostRead {s t : State} (h : SameKnown s t) (a : HostAddr) :
    sameKnownOutcome (hostRead a s) (hostRead a t) := by
  by_cases readable : ∃ loc, hostMap s.cfg a = some loc ∧ loc ≠ .cmd
  · obtain ⟨loc, hm, hcmd⟩ := readable
    rw [hostRead_of_byteAt hm hcmd, hostRead_of_byteAt (h.cfg ▸ hm) hcmd, h.byteAt]
    exact h.answerRead a _
  · simp only [Sys2Proof.Machine.hostRead, h.cfg]
    rcases hm : hostMap s.cfg a with _ | loc
    · rfl
    · obtain rfl : loc = .cmd := by_contra fun hcmd => readable ⟨loc, hm, hcmd⟩
      rfl

/-- Reset leaves nothing of the values under the marks (R130). -/
theorem SameKnown.assertReset {s t : State} (h : SameKnown s t) : SameKnown (assertReset s) (assertReset t) := by
  simp only [Sys2Proof.Machine.assertReset, h.cfg, h.unwrittenRead, h.pending, h.answers]
  exact State.sameKnown_iff.1 (by simp [State.sameKnown])

/-- Settles O28: each kind of transaction keeps the relation, by the lemmas above. -/
theorem unwrittenValuesDoNotMatter : Obligations.UnwrittenValuesDoNotMatter := by
  intro s t h
  have same : SameKnown s t := State.sameKnown_iff.1 h
  rcases hp : s.pending with _ | ⟨tr, rest⟩
  · simpa [step, nextEvent, same.pending, hp] using same.next
  · rw [step_of_pending hp, step_of_pending (same.pending.trans hp)]
    have taken := same.setPending rest
    cases tr with
    | write a v => exact taken.hostWrite a v
    | read a => exact taken.hostRead a
    | reset => exact taken.assertReset.next

/-! ### The halted block -/

/-- No case of a command changes a halted block (R116). -/
theorem CommandCase.eq_of_halted {i : Instr} {s t : State} (h : CommandCase i s t) (halted : s.errCause ≠ 0x00) :
    t = s := by
  cases h with
  | ignored => rfl
  | tooSmall running | unwritten running | mismatch running | generated running | decoded running =>
    exact absurd running halted

/-- A halted block ignores every command (R116). -/
theorem exec_of_halted {i : Instr} {s : State} (halted : s.errCause ≠ 0x00) : exec i s = .next s := by
  obtain ⟨t, ht, result⟩ := exec_case i s
  rwa [result.eq_of_halted halted] at ht

/-- A halted block ignores every byte written to CMD, command or not (R116). -/
theorem step_of_halted {s : State} {c : Byte} {rest : List Transaction} (halted : s.errCause ≠ 0x00)
    (hp : s.pending = .write cmdAddr c :: rest) : step s = .next (s.setPending rest) := by
  have stays : (s.setPending rest).halted = true := State.halted_eq_true.2 halted
  rw [step_of_command hp]
  rcases hd : decodeByte c with e | i
  · rw [issueCommand_of_error hd, if_pos stays]
  · rw [issueCommand_of_ok hd]
    exact exec_of_halted (s := s.setPending rest) halted

/-- Settles O21: commands by the lemmas above, and the kept fault over the cases of a step. -/
theorem haltedBlockIgnoresCommands : Obligations.HaltedBlockIgnoresCommands := by
  intro s halted
  refine ⟨fun _ => exec_of_halted halted, fun _ _ hp => step_of_halted halted hp, fun t h noReset => ?_, ?_⟩
  · cases step_case h with
    | reset rest next => exact absurd (by rw [next]; rfl) noReset
    | command _ _ _ _ _ _ result => rw [result.eq_of_halted halted]; exact ⟨rfl, rfl⟩
    | illegal _ _ _ _ running => exact absurd running halted
    | _ => exact ⟨rfl, rfl⟩
  · have faulty : (s.errCause == 0x00) = false := beq_eq_false_iff_ne.2 halted
    rw [State.good, faulty, Bool.false_and]

/-! ### Faults -/

/-- Settles O22: the short buffer by `exec_of_tooSmall`; with FB_LEN at least 23 every command fits, and no case of a
command but the short buffer's writes cause code 2. -/
theorem shortBufferRaisesBufferTooSmall : Obligations.ShortBufferRaisesBufferTooSmall := by
  refine ⟨rfl, rfl, rfl, rfl, rfl, rfl, fun i s running => ⟨exec_of_tooSmall running, fun t fits h => ?_⟩⟩
  have longest : bytesNeeded i ≤ 23 := by cases i <;> decide
  cases commandCase_of_exec h with
  | tooSmall _ small => omega
  | mismatch => exact (by decide : (0x03 : Byte) ≠ 0x02)
  | ignored | unwritten | generated | decoded => simp [running]

/-- A fault that a command raises is the cause code and the command's byte, and nothing else (R115). -/
theorem CommandCase.fault_precise {i : Instr} {s t : State} (h : CommandCase i s t) (running : s.errCause = 0x00)
    (fault : t.errCause ≠ 0x00) :
    t = { s with errCause := t.errCause, errCmd := encodeByte i } ∧ (t.errCause = 0x02 ∨ t.errCause = 0x03) := by
  cases h with
  | tooSmall => exact ⟨rfl, .inl rfl⟩
  | mismatch => exact ⟨rfl, .inr rfl⟩
  | ignored | unwritten | generated | decoded => exact absurd running fault

/-- Settles O23: a command's fault by `CommandCase.fault_precise`, an illegal byte's by its own case of a step. -/
theorem faultsArePrecise : Obligations.FaultsArePrecise := by
  intro s t c rest running hp h fault
  rcases hd : decodeByte c with e | i
  · cases (step_of_illegalByte hp hd running).symm.trans h
    exact ⟨rfl, .inl rfl⟩
  · rw [step_of_decodedCommand hp hd] at h
    obtain ⟨precise, cause⟩ := (commandCase_of_exec h).fault_precise running fault
    rw [encodeByte_of_decodeByte hd] at precise
    exact ⟨precise, .inr cause⟩

/-- Settles O26: a command and an illegal byte are written to CMD, and no other case of a step writes ERR_CAUSE but
reset, which clears it. -/
theorem onlyCommandsRaiseFaults : Obligations.OnlyCommandsRaiseFaults := by
  intro s t h running fault
  cases step_case h with
  | command _ c rest next => exact ⟨c, rest, next⟩
  | illegal c rest next => exact ⟨c, rest, next⟩
  | reset => exact absurd rfl fault
  | _ => exact absurd running fault

/-! ### The run's UnwrittenRead mark -/

/-- A command keeps a set mark, and changes nothing else when it sets it (R118). -/
theorem CommandCase.recorded_or_unwrittenRead_eq {i : Instr} {s t : State} (h : CommandCase i s t) :
    t = { s with unwrittenRead := true } ∨ t.unwrittenRead = s.unwrittenRead := by
  cases h with
  | unwritten => exact .inl rfl
  | ignored | tooSmall | mismatch | generated | decoded => exact .inr rfl

/-- A step either records UnwrittenRead and does nothing else but take its transaction off the list, or leaves the mark
as it was, reset included (R118). -/
theorem step_recorded_or_unwrittenRead_eq {s t : State} (h : step s = .next t) :
    t = { s with pending := s.pending.tail, unwrittenRead := true } ∨ t.unwrittenRead = s.unwrittenRead := by
  cases step_case h with
  | command _ _ rest next _ _ result =>
    rw [next]
    exact result.recorded_or_unwrittenRead_eq
  | unwritten _ rest next => rw [next]; exact .inl rfl
  | _ => exact .inr rfl

/-- Settles O27 by `step_recorded_or_unwrittenRead_eq`. -/
theorem unwrittenReadMarkIsPermanent : Obligations.UnwrittenReadMarkIsPermanent := by
  intro s t h
  rcases step_recorded_or_unwrittenRead_eq h with recorded | kept
  · exact ⟨fun _ => by rw [recorded], fun _ _ => recorded⟩
  · exact ⟨fun marked => kept.trans marked, fun unmarked marked => by simp [kept, unmarked] at marked⟩

/-! ### The order of the checks -/

/-- A command that passes every check is performed: it ends with no fault and leaves the run's mark as it was (R117 step
6). -/
theorem exec_of_checksPassed {i : Instr} {s : State} (running : s.errCause = 0x00)
    (fits : bytesNeeded i ≤ s.cfg.fbLen) (operands : operandsWritten i s = true)
    (matched : i.isDecode = true → frameControlMatches i s = some true) :
    ∃ t, exec i s = .next t ∧ t.errCause = 0x00 ∧ t.unwrittenRead = s.unwrittenRead := by
  obtain ⟨t, ht, result⟩ := exec_case i s
  refine ⟨t, ht, ?_⟩
  cases result with
  | generated | decoded => exact ⟨running, rfl⟩
  | ignored halted => exact absurd running halted
  | tooSmall _ small => exact absurd fits (Nat.not_le.2 small)
  | unwritten _ _ missing =>
    rcases missing with missing | ⟨isDecode, missing⟩
    · exact absurd operands (Bool.eq_false_iff.1 missing)
    · simp [matched isDecode] at missing
  | mismatch _ _ isDecode _ differs => simp [matched isDecode] at differs

/-- Settles O24: each outcome of a command by its own lemma, the frame-control clauses by what each answer of the check
means. -/
theorem commandChecksInOrder : Obligations.CommandChecksInOrder := by
  intro s c rest hp
  refine ⟨fun halted => step_of_halted halted hp, fun running illegal => ?_, fun i running hd => ?_⟩
  · rcases hd : decodeByte c with e | i
    · exact step_of_illegalByte hp hd running
    · exact absurd hd (illegal i)
  obtain rfl := decodeByte_eq_ok.1 hd
  rw [step_of_decodedCommand hp hd]
  have operands_eq : operandsWritten i (s.setPending rest) = operandsWritten i s := operandsWritten_setPending i s rest
  refine ⟨exec_of_tooSmall (s := s.setPending rest) running, fun fcUnwritten fcDiffers unwritten_iff differs_iff =>
    ⟨fun fits missing => ?_, fun fits operands known differs => ?_, fun fits operands same => ?_⟩⟩
  · rcases missing with missing | unwritten
    · exact exec_of_operandsUnwritten (s := s.setPending rest) running fits (operands_eq.trans missing)
    · obtain ⟨isDecode, unwritten⟩ := unwritten_iff.1 unwritten
      exact exec_of_frameControlUnwritten (s := s.setPending rest) running fits isDecode
        (frameControlMatches_eq_none.2 unwritten)
  · obtain ⟨isDecode, validate, differs⟩ := differs_iff.1 differs
    have written (k : Nat) (hk : k < (frameControl s.cfg i).length) : s.fb.read k ≠ none :=
      fun hnone => known (unwritten_iff.2 ⟨isDecode, validate, k, hk, hnone⟩)
    exact exec_of_frameControlDiffers (s := s.setPending rest) running fits isDecode (operands_eq.trans operands)
      (frameControlMatches_eq_some_false.2 ⟨validate, written, differs⟩)
  · have matched (isDecode : i.isDecode = true) : frameControlMatches i (s.setPending rest) = some true :=
      frameControlMatches_eq_some_true.2 fun validate k hk =>
        by_contra fun differs => same (differs_iff.2 ⟨isDecode, validate, k, hk, differs⟩)
    obtain ⟨t, ht, noFault, unmarked⟩ :=
      exec_of_checksPassed (s := s.setPending rest) running fits (operands_eq.trans operands) matched
    exact ⟨t, ht, ht, noFault, unmarked⟩

/-! ### Allowed transactions -/

/-- Every byte written to CMD has a next state (R112, R117). -/
theorem exists_issueCommand_eq_next (c : Byte) (s : State) : ∃ t, issueCommand c s = .next t := by
  rcases hd : decodeByte c with e | i
  · exact ⟨_, issueCommand_of_error hd s⟩
  · obtain ⟨t, ht, -⟩ := exec_case i s
    exact ⟨t, (issueCommand_of_ok hd s).trans ht⟩

/-- A host write to CMD, an operand register or FB has a next state (R44). -/
theorem exists_hostWrite_eq_next {s : State} {a : HostAddr} (v : Byte)
    (writable : a.toNat = 0x0000 ∨ (0x0004 ≤ a.toNat ∧ a.toNat ≤ 0x0017) ∨
      (0x0100 ≤ a.toNat ∧ a.toNat < 0x0100 + s.cfg.fbLen)) : ∃ t, hostWrite a v s = .next t := by
  rcases hostMap_total s.cfg a with ⟨-, reserved⟩ | ⟨loc, hm, hat⟩
  · omega
  · cases loc with
    | cmd =>
      simp only [hostWrite, hm]
      exact exists_issueCommand_eq_next v s
    | errCause | errCmd | outShort | outLong => simp only [HostLoc.At] at hat; omega
    | _ => exact ⟨_, hostWrite_of_storeAt hm rfl⟩

/-- A host read of a status, operand or output register or of FB has a next state (R45). -/
theorem exists_hostRead_eq_next {s : State} {a : HostAddr}
    (readable : (0x0001 ≤ a.toNat ∧ a.toNat ≤ 0x0002) ∨ (0x0004 ≤ a.toNat ∧ a.toNat ≤ 0x0019) ∨
      (0x0020 ≤ a.toNat ∧ a.toNat ≤ 0x0027) ∨ (0x0100 ≤ a.toNat ∧ a.toNat < 0x0100 + s.cfg.fbLen)) :
    ∃ t, hostRead a s = .next t := by
  rcases hostMap_total s.cfg a with ⟨-, reserved⟩ | ⟨loc, hm, hat⟩
  · omega
  · have hcmd : loc ≠ .cmd := by
      rintro rfl
      simp only [HostLoc.At] at hat
      omega
    rw [hostRead_of_byteAt hm hcmd]
    cases s.byteAt loc <;> exact ⟨_, rfl⟩

/-- Settles O41: where the map gives the access, the two lemmas above; a reset and an empty list always step. -/
theorem allowedTransactionsAlwaysStep : Obligations.AllowedTransactionsAlwaysStep := by
  intro s
  rcases hp : s.pending with _ | ⟨tr, rest⟩
  · exact .inl ⟨s, by simp [step, nextEvent, hp]⟩
  rw [step_of_pending hp]
  refine or_iff_not_imp_right.2 fun allowed => ?_
  cases tr with
  | write a v =>
    refine exists_hostWrite_eq_next v (by_contra fun forbidden => allowed ⟨a, .inl ⟨v, rfl, ?_⟩⟩)
    simpa only [not_or, ne_eq, State.setPending_cfg] using forbidden
  | read a =>
    refine exists_hostRead_eq_next (by_contra fun forbidden => allowed ⟨a, .inr ⟨rfl, ?_⟩⟩)
    simpa only [not_or, ne_eq, State.setPending_cfg] using forbidden
  | reset => exact ⟨_, rfl⟩

end Sys2Proof.Machine

/-! PROOFS. The family 70_reset_and_hazards.md: the reset transaction (R130). -/

namespace Sys2Proof.Machine

/-- Settles O33: a reset transaction asserts reset, which takes every value of R37 from `State.resetWith` (O32) and the
rest from the state it interrupts. -/
theorem resetTransactionResets : Obligations.ResetTransactionResets := by
  intro s rest hp
  obtain ⟨seq, errCause, errCmd, shortMarked, longMarked, fbUnwritten⟩ := resetLeavesSpecifiedValues s.cfg
  exact ⟨assertReset (s.setPending rest), step_of_reset hp, seq, errCause, errCmd, shortMarked, longMarked, fbUnwritten,
    rfl, rfl⟩

end Sys2Proof.Machine
